-- ==== Sys2Proof/Word.lean ====
section
/-! DEFINITION. The word types of JK-MSE: the widths of 00_scope.md rule R6 and 10_state.md rule R21. -/

namespace Sys2Proof

/-- A byte is 8 bits (R8); the command word and each image byte are one byte. -/
abbrev Byte := BitVec 8

/-- A frequency port or latch: `FREQ_W` = 32 bits, unsigned, in Hz (R6). -/
abbrev Freq := BitVec 32

/-- An R-divider code: "stored as a 3-bit log2 code" (R6, R144). -/
abbrev RDivCode := BitVec 3

end Sys2Proof
end

