-- ==== Sys2Proof/Config.lean ====
section
/-! DEFINITION. What an implementation fixes, and the free values.

`Cfg` is the configuration record of 00_scope.md rule R5: eleven constants, each OPEN. The chip's own configuration is the
opaque constant `Config.chip` of Machine/Chip.lean, which is a well-formed one (R7) and nothing more.
The other opaque constants below are values the spec leaves without any law; nothing in Lean can evaluate them. -/

namespace Sys2Proof

/-- The configuration record `CFG` (R5). All values are in Hz and, as R8 has it, integers; R7 bounds them. -/
structure Cfg where
  /-- `MIN_OUT`, the clamp floor. -/
  minOut : Nat
  /-- `MAX_OUT`, the clamp ceiling. -/
  maxOut : Nat
  /-- `B8_LO`: the mid band `[B8_LO, B8_HI)`, where PLL = 8 × f. -/
  b8Lo : Nat
  /-- `B8_HI`. -/
  b8Hi : Nat
  /-- `B6_LO`: the higher band `[B6_LO, B6_HI)`, where PLL = 6 × f. -/
  b6Lo : Nat
  /-- `B6_HI`. -/
  b6Hi : Nat
  /-- `B4_LO`: the high band `[B4_LO, B4_HI)`, where PLL = 4 × f and the divide-by-4 flag is set. -/
  b4Lo : Nat
  /-- `B4_HI`. -/
  b4Hi : Nat
  /-- `PLL_MIN`, the minimum supported PLL frequency. -/
  pllMin : Nat
  /-- `PLL_MAX`, the maximum supported PLL frequency. -/
  pllMax : Nat
  /-- `DIVBY4_THR`, the divide-by-4 threshold on the working frequency. -/
  divBy4Thr : Nat
  deriving DecidableEq, Repr, Inhabited

namespace Config

/-- The upper edge of the very-low PLL band: "<8 kHz", taken as 8,000 Hz (R6, R10). -/
abbrev veryLowEdge : Nat := 8000

/-- TC1, the spec's test configuration (92_eei_decisions.md D25). Only the tests and witnesses use it: it is no claim about
the design's constants, and `Config.chip` is not known to be it. -/
def tc1 : Cfg where
  minOut := 4000
  maxOut := 225000000
  b8Lo := 75000000
  b8Hi := 112500000
  b6Lo := 112500000
  b6Hi := 150000000
  b4Lo := 150000000
  b4Hi := 225000001
  pllMin := 600000000
  pllMax := 900000000
  divBy4Thr := 150000000

/-- TC2, the configuration of the source's 7 MHz example (92_eei_decisions.md D30); for tests only. -/
def tc2 : Cfg where
  minOut := 1000000
  maxOut := 10000000
  b8Lo := 1000000
  b8Hi := 10000001
  b6Lo := 0
  b6Hi := 0
  b4Lo := 0
  b4Hi := 0
  pllMin := 8000000
  pllMax := 80000000
  divBy4Thr := 150000000

/-- TC3, TC1 with a lower `MAX_OUT` (92_eei_decisions.md D30); for tests only. -/
def tc3 : Cfg := { tc1 with maxOut := 160000000, b4Hi := 160000001 }

/-! ### Free values: what a host reads from storage no command has written since reset

"A host read of a latch while `SELV` = 0 returns an unspecified value" (10_state.md R23), and so for `IMG` while
`IMGV` = 0 (R24); 93_implementation_defined.md I6: any value, a draw under no law. Each is applied to the number of reset
events so far and to the command index, so that two reads between the same two commands agree (20_memory.md R52) and
nothing else is known of them (DESIGN CHOICE: assumption log entry 4). -/

/-- What a read of an unwritten `SEL_FOUT` returns. -/
opaque unwrittenFout : Nat → Nat → Freq
/-- What a read of an unwritten `SEL_FPLL` returns. -/
opaque unwrittenFpll : Nat → Nat → Freq
/-- What a read of an unwritten `SEL_FWORK` returns. -/
opaque unwrittenFwork : Nat → Nat → Freq
/-- What a read of an unwritten `SEL_RDIV` returns. -/
opaque unwrittenRdiv : Nat → Nat → RDivCode
/-- What a read of an unwritten `SEL_D4` returns. -/
opaque unwrittenD4 : Nat → Nat → Bool
/-- What a read of an unwritten `SEL_INT` returns. -/
opaque unwrittenInt : Nat → Nat → Bool
/-- What a read of a byte of an unwritten `IMG` returns. -/
opaque unwrittenImg : Nat → Nat → BitVec 3 → Byte

/-! ### OPEN parameters of the host (20_memory.md R54): the base addresses of the chip's parameter blocks -/

/-- `PLLA_BASE`. -/
opaque pllABase : Byte
/-- `PLLB_BASE`. -/
opaque pllBBase : Byte
/-- `MS0_BASE`. -/
opaque ms0Base : Byte
/-- `MS1_BASE`. -/
opaque ms1Base : Byte
/-- `MS2_BASE`. -/
opaque ms2Base : Byte

/-! ### Values of the external approximator that the spec leaves open (00_scope.md R14, 93_implementation_defined.md I7; log entry 17) -/

/-- The word on `A_IN`, where the denominator is zero or a is 2^32 or more. -/
opaque approximateOpenA : Nat → Nat → Nat → BitVec 32
/-- The word on `B_IN`, where the denominator is zero, an operand is above 2^53, or b is 2^20 or more. -/
opaque approximateOpenB : Nat → Nat → Nat → BitVec 20
/-- The word on `C_IN`, where maxDenominator is 2^20 or more. -/
opaque approximateOpenC : Nat → Nat → Nat → BitVec 20

end Config

end Sys2Proof
end

