-- ==== Sys2Proof/Machine/Bands.lean ====
section
/-! DEFINITION. The mode selector's sub-functions, over a configuration and the integers
(41_selector.md rules R142, R143, R146, R147). Every band is half-open (00_scope.md rule R10). -/

namespace Sys2Proof.Machine

/-- `clamp(v, lo, hi) = min(max(v, lo), hi)` (R8). -/
def clamp (v lo hi : Nat) : Nat := min (max v lo) hi

/-- The clamped frequency, which every later sub-function reads (R142). -/
def clampedFreq (c : Cfg) (requested : Nat) : Nat := clamp requested c.minOut c.maxOut

/-- What the R-divider multiplexer gives: the log2 code and the working frequency. -/
structure RDivChoice where
  rdiv : RDivCode
  work : Nat
  deriving DecidableEq, Repr

/-- The R-divider multiplexer (R143), with the codes of R144. -/
def rdivSelect (c : Cfg) (f : Nat) : RDivChoice :=
  if 200000 ≤ f ∧ f < 1000000 then ⟨2, 4 * f⟩
  else if 50000 ≤ f ∧ f < 200000 then ⟨4, 16 * f⟩
  else if c.minOut ≤ f ∧ f < 50000 then ⟨7, 128 * f⟩
  else ⟨0, f⟩

/-- What the PLL band selection gives: the PLL frequency and the divide-by-4 flag. -/
structure PllChoice where
  pll : Nat
  d4 : Bool
  deriving DecidableEq, Repr

/-- PLL-frequency selection and divide-by-4 flag, in the priority order of R146. -/
def pllSelect (c : Cfg) (f : Nat) : PllChoice :=
  if c.b8Lo ≤ f ∧ f < c.b8Hi then ⟨8 * f, false⟩
  else if c.b6Lo ≤ f ∧ f < c.b6Hi then ⟨6 * f, false⟩
  else if c.b4Lo ≤ f ∧ f < c.b4Hi then ⟨4 * f, true⟩
  else if f < Config.veryLowEdge then ⟨c.pllMin, false⟩
  else ⟨c.pllMax, false⟩

/-- The PLL frequency alone, in the priority order of R146. -/
theorem pllSelect_pll (c : Cfg) (f : Nat) :
    (pllSelect c f).pll =
      if c.b8Lo ≤ f ∧ f < c.b8Hi then 8 * f
      else if c.b6Lo ≤ f ∧ f < c.b6Hi then 6 * f
      else if c.b4Lo ≤ f ∧ f < c.b4Hi then 4 * f
      else if f < Config.veryLowEdge then c.pllMin
      else c.pllMax := by
  unfold pllSelect
  split_ifs <;> rfl

/-- DividerMode (R147): Integer exactly when the working frequency is at or above the threshold. -/
def dividerInt (c : Cfg) (work : Nat) : Bool := decide (c.divBy4Thr ≤ work)

end Sys2Proof.Machine
end

