-- ==== Sys2Proof/Syntax.lean ====
section
/-! DEFINITION. The five commands (30_encoding.md rule R71) and the assembler's lines (rules R77, R78). -/

namespace Sys2Proof

/-- The commands, one constructor per row of the opcode map (R71). Only `ENCMS` carries operands in its word (R72), and the
types bound them: every value of this type is a well-formed instruction. -/
inductive Instr where
  /-- `NOP` (R150). -/
  | nop
  /-- `SELECT` (R141). -/
  | select
  /-- `ENCPLL` (R110). -/
  | encpll
  /-- `ENCMS` (R120): DividerMode `int` (true is Integer), divide-by-4 flag `d4`, R-divider code `rdiv`. -/
  | encms (int d4 : Bool) (rdiv : RDivCode)
  /-- `ENCMS.S` (R122): the mode fields come from the selector latches. -/
  | encmsS
  deriving DecidableEq, Repr

/-- The ratio operands of an assembler line; an omitted one means that the port keeps its previous value (R77). -/
structure RatioArgs where
  a : Option Nat
  b : Option Nat
  c : Option Nat
  deriving DecidableEq, Repr

/-- One line of assembler text: one command transaction (R77), or a pseudo-command (R78). Values are as written. -/
inductive Line where
  | nop
  | select (f : Nat)
  | encpll (args : RatioArgs)
  | encms (args : RatioArgs) (int d4 rdiv : Option Nat)
  | encmsS (args : RatioArgs)
  /-- `ENCMS.DIV4`. -/
  | encmsDiv4 (args : RatioArgs)
  /-- `ENCMS.FRAC rdiv=r`. -/
  | encmsFrac (args : RatioArgs) (rdiv : Nat)
  deriving DecidableEq, Repr

/-- The operand spelling `RDIV1` of `rdiv` (R78). -/
def rdiv1 : Nat := 0
/-- The operand spelling `RDIV4` of `rdiv` (R78). -/
def rdiv4 : Nat := 2
/-- The operand spelling `RDIV16` of `rdiv` (R78). -/
def rdiv16 : Nat := 4
/-- The operand spelling `RDIV128` of `rdiv` (R78). -/
def rdiv128 : Nat := 7

end Sys2Proof
end

