-- ==== Sys2Proof/WellFormed.lean ====
section
/-! DEFINITION. What is well formed: a configuration (00_scope.md rule R7, `WF_CFG`) and an assembler line (30_encoding.md
rule R77, 10_state.md rule R21). A command needs no check of its own: the types of `Instr` bound its operands. -/

namespace Sys2Proof

/-- The half-open intervals `[lo, hi)` and `[lo', hi')` share no number: one is empty or lies below the other. -/
abbrev bandsDisjoint (lo hi lo' hi' : Nat) : Prop :=
  hi ≤ lo ∨ hi' ≤ lo' ∨ hi ≤ lo' ∨ hi' ≤ lo

namespace Cfg

/-- `cfg_min_pos` (R7). -/
abbrev minPos (c : Cfg) : Prop := 1 ≤ c.minOut ∧ c.minOut ≤ c.maxOut ∧ c.maxOut < 2 ^ 32

/-- `cfg_band_order` (R7). -/
abbrev bandOrder (c : Cfg) : Prop := c.b8Lo ≤ c.b8Hi ∧ c.b6Lo ≤ c.b6Hi ∧ c.b4Lo ≤ c.b4Hi

/-- `cfg_band_disjoint` (R7): `[0, 8000)` and the three multiplier bands are pairwise disjoint. -/
abbrev bandDisjoint (c : Cfg) : Prop :=
  bandsDisjoint 0 Config.veryLowEdge c.b8Lo c.b8Hi ∧
  bandsDisjoint 0 Config.veryLowEdge c.b6Lo c.b6Hi ∧
  bandsDisjoint 0 Config.veryLowEdge c.b4Lo c.b4Hi ∧
  bandsDisjoint c.b8Lo c.b8Hi c.b6Lo c.b6Hi ∧
  bandsDisjoint c.b8Lo c.b8Hi c.b4Lo c.b4Hi ∧
  bandsDisjoint c.b6Lo c.b6Hi c.b4Lo c.b4Hi

/-- `cfg_fit` (R7): every PLL value the selector can produce is below 2^32. -/
abbrev fit (c : Cfg) : Prop :=
  (c.b8Lo < c.b8Hi → 8 * (c.b8Hi - 1) < 2 ^ 32) ∧
  (c.b6Lo < c.b6Hi → 6 * (c.b6Hi - 1) < 2 ^ 32) ∧
  (c.b4Lo < c.b4Hi → 4 * (c.b4Hi - 1) < 2 ^ 32) ∧
  c.pllMin < 2 ^ 32 ∧ c.pllMax < 2 ^ 32

/-- `cfg_pll_range` (R7): over the clamped range the PLL value of R146 lies in `[PLL_MIN, PLL_MAX]`. -/
abbrev pllRange (c : Cfg) : Prop :=
  c.pllMin ≤ c.pllMax ∧
  ∀ f, c.minOut ≤ f → f ≤ c.maxOut →
    c.pllMin ≤ (Machine.pllSelect c f).pll ∧ (Machine.pllSelect c f).pll ≤ c.pllMax

/-- `WF_CFG` (R7): every named check holds. -/
structure WF (c : Cfg) : Prop where
  minPos : c.minPos
  bandOrder : c.bandOrder
  bandDisjoint : c.bandDisjoint
  fit : c.fit
  pllRange : c.pllRange

end Cfg

/-- A value an assembler line gives for a port or field of `width` bits fits it; an omitted one does. -/
def fits (width : Nat) : Option Nat → Bool
  | none => true
  | some v => decide (v < 2 ^ width)

/-- The ratio operands fit the ports `A_IN` (32 bits), `B_IN` and `C_IN` (20 bits) (R21). -/
def RatioArgs.wf (r : RatioArgs) : Bool := fits 32 r.a && fits 20 r.b && fits 20 r.c

/-- A line is well formed: every value fits its port, and `int=<0|1>`, `d4=<0|1>`, `rdiv=<0..7>` (R77). -/
def Line.wf : Line → Bool
  | .nop => true
  | .select f => fits 32 (some f)
  | .encpll r => r.wf
  | .encms r int d4 rdiv => r.wf && fits 1 int && fits 1 d4 && fits 3 rdiv
  | .encmsS r => r.wf
  | .encmsDiv4 r => r.wf
  | .encmsFrac r rdiv => r.wf && fits 3 (some rdiv)

end Sys2Proof
end

