-- ==== Sys2Proof/Decode.lean ====
section
/-! DEFINITION. The command word: the opcode map (30_encoding.md rule R71), the decoder (R74), the encoder (R70 to R73), and
the expansion of assembler lines to commands (R77, R78). -/

namespace Sys2Proof

/-! ### The opcode map -/

/-- A row of the opcode map: a word w selects it when `(w & mask) == match` (R71). -/
structure OpcodeRow where
  mnemonic : String
  matchBits : Byte
  maskBits : Byte
  deriving DecidableEq, Repr

/-- The word selects the row (R71). -/
def OpcodeRow.selects (r : OpcodeRow) (w : Byte) : Bool := (w &&& r.maskBits) == r.matchBits

def rowNop : OpcodeRow := ⟨"NOP", 0x00, 0xFF⟩
def rowSelect : OpcodeRow := ⟨"SELECT", 0x01, 0xFF⟩
def rowEncpll : OpcodeRow := ⟨"ENCPLL", 0x02, 0xFF⟩
def rowEncms : OpcodeRow := ⟨"ENCMS", 0x03, 0x83⟩
def rowEncmsS : OpcodeRow := ⟨"ENCMS.S", 0x83, 0xFF⟩

/-- The opcode map, one row per command (R71). -/
def opcodeMap : List OpcodeRow := [rowNop, rowSelect, rowEncpll, rowEncms, rowEncmsS]

/-- The row of the map a command belongs to. -/
def Instr.row : Instr → OpcodeRow
  | .nop => rowNop
  | .select => rowSelect
  | .encpll => rowEncpll
  | .encms _ _ _ => rowEncms
  | .encmsS => rowEncmsS

/-! ### The decoder -/

/-- Why a word is `ILLEGAL` (R74, R183): which reserved bits are set. -/
inductive Illegal where
  /-- `OP` = 00 with a bit of 7:2 set. -/
  | nopReserved
  /-- `OP` = 01 with a bit of 7:2 set. -/
  | selectReserved
  /-- `OP` = 10 with a bit of 7:2 set. -/
  | encpllReserved
  /-- `OP` = 11 and `S` = 1 with a bit of 6:2 set. -/
  | encmsSReserved
  deriving DecidableEq, Repr

/-- What the decoder answers: a command, or `ILLEGAL` with its reason. -/
inductive Decoded where
  | instr (i : Instr)
  | illegal (why : Illegal)
  deriving DecidableEq, Repr

/-- The field `OP`, bits 1:0 (R70). -/
def fieldOp (w : Byte) : BitVec 2 := w.extractLsb' 0 2
/-- The field `INT`, bit 2 (R70). -/
def fieldInt (w : Byte) : Bool := w.getLsbD 2
/-- The field `D4`, bit 3 (R70). -/
def fieldD4 (w : Byte) : Bool := w.getLsbD 3
/-- The field `RDIV`, bits 6:4 (R70). -/
def fieldRdiv (w : Byte) : RDivCode := w.extractLsb' 4 3
/-- The field `S`, bit 7 (R70). -/
def fieldS (w : Byte) : Bool := w.getLsbD 7
/-- Bits 7:2, which must be 0 in every command but the `ENCMS` family (R74). -/
def fieldHigh (w : Byte) : BitVec 6 := w.extractLsb' 2 6
/-- Bits 6:2, the mode fields of `ENCMS`, which must be 0 in `ENCMS.S` (R70, R74). -/
def fieldMode (w : Byte) : BitVec 5 := w.extractLsb' 2 5

/-- The decoder, total on all 256 words (R74). It reads the word alone (R76). -/
def decode (w : Byte) : Decoded :=
  if fieldOp w = 0b00#2 then
    if fieldHigh w = 0 then .instr .nop else .illegal .nopReserved
  else if fieldOp w = 0b01#2 then
    if fieldHigh w = 0 then .instr .select else .illegal .selectReserved
  else if fieldOp w = 0b10#2 then
    if fieldHigh w = 0 then .instr .encpll else .illegal .encpllReserved
  else if fieldS w = false then .instr (.encms (fieldInt w) (fieldD4 w) (fieldRdiv w))
  else if fieldMode w = 0 then .instr .encmsS
  else .illegal .encmsSReserved

/-- The command of a decoder's answer, if it is one. -/
def Decoded.toOption : Decoded → Option Instr
  | .instr i => some i
  | .illegal _ => none

/-! ### The encoder -/

/-- The command word of a command: the fixed words of R71, and for `ENCMS` the fields at the places of R70. -/
def encode : Instr → Byte
  | .nop => 0x00
  | .select => 0x01
  | .encpll => 0x02
  | .encms int d4 rdiv => 0#1 ++ rdiv ++ BitVec.ofBool d4 ++ BitVec.ofBool int ++ 0b11#2
  | .encmsS => 0x83

/-- The instruction this decoder reads from a word numbered as spec/opcode_table.json numbers it. A command is one 8-bit word
with no extension (R70), so a number of bits above 8 names none; below 8 the missing bits are 0 (DESIGN CHOICE, safe: log entry 15). -/
def decodeTableWord (nbits w : Nat) : Option Instr :=
  if nbits ≤ 8 then (decode (BitVec.ofNat 8 (w % 2 ^ nbits))).toOption else none

/-! ### Assembler lines -/

/-- A pseudo-command is the core line it expands to (R78). -/
def Line.expand : Line → Line
  | .encmsDiv4 r => .encms r (some 1) (some 1) (some 0)
  | .encmsFrac r rdiv => .encms r (some 0) (some 0) (some rdiv)
  | l => l

/-- The value of an omitted `int`, `d4` or `rdiv` is 0 (R77). -/
def orZero (v : Option Nat) : Nat := v.getD 0

/-- The command of a core line; `ENCMS` takes its fields from the line. -/
def Line.coreInstr : Line → Instr
  | .nop => .nop
  | .select _ => .select
  | .encpll _ => .encpll
  | .encms _ int d4 rdiv => .encms (orZero int == 1) (orZero d4 == 1) (BitVec.ofNat 3 (orZero rdiv))
  | .encmsS _ => .encmsS
  | .encmsDiv4 _ => .encms true true 0
  | .encmsFrac _ rdiv => .encms false false (BitVec.ofNat 3 rdiv)

/-- The command a line names; none for an ill-formed line, whose values no port or field can hold (DEDUCED, safe:
log entry 16). -/
def Line.instr (l : Line) : Option Instr := if l.wf then some l.expand.coreInstr else none

end Sys2Proof
end

