-- ==== Sys2Proof/Machine/Chip.lean ====
section
/-! DEFINITION. The chip's configuration: an opaque well-formed one. 00_scope.md rule R7: "A configuration that fails a check
is refused as a whole, and the block gives it no meaning", so the type of configurations the machine may have is the type
of well-formed ones. -/

namespace Sys2Proof

open Machine in
/-- TC1 keeps every PLL value of the clamped range in `[PLL_MIN, PLL_MAX]` (92_eei_decisions.md, the check of TC1). -/
theorem Config.tc1_pllRange : Config.tc1.pllRange := by
  refine ⟨by decide, fun f hlo hhi => ?_⟩
  rw [pllSelect_pll]
  split_ifs <;> simp only [Config.tc1, Config.veryLowEdge] at * <;> omega

/-- TC1 satisfies every check of `WF_CFG` (92_eei_decisions.md D25): there is a well-formed configuration. -/
theorem Config.tc1_wf : Config.tc1.WF where
  minPos := by decide
  bandOrder := by decide
  bandDisjoint := by decide
  fit := by decide
  pllRange := Config.tc1_pllRange

/-- A configuration with the proof that it is well formed. The two values after := serve one purpose, to show Lean that the
type is inhabited, which an opaque constant of it needs; they fix nothing about `Config.chip`. -/
structure WfCfg where
  cfg : Cfg := Config.tc1
  wf : cfg.WF := by exact Config.tc1_wf
  deriving Inhabited

/-- The configuration of this chip: "fixed for the life of the block" and OPEN (R5). It has no body: nothing is known of it
but that it is well formed (DESIGN CHOICE, safe: assumption log entry 1). -/
opaque Config.chip : WfCfg

/-- The chip's configuration as a plain record. -/
abbrev Config.cfg : Cfg := Config.chip.cfg

end Sys2Proof
end

