-- ==== Sys2Proof/Machine/State.lean ====
section
/-! DEFINITION. The machine's state as plain data (10_state.md rules R20 to R31), the state after reset, and the reasons a step
could stop. -/

namespace Sys2Proof.Machine

/-- The operand ports, driven by the host and never written by the block (R21). -/
structure Ports where
  /-- `CMD`, the command word. -/
  cmd : Byte
  /-- `FREQ_IN`, the requested output frequency in Hz. -/
  freqIn : Freq
  /-- `A_IN`, the ratio's integer part a. -/
  aIn : BitVec 32
  /-- `B_IN`, the ratio's numerator b. -/
  bIn : BitVec 20
  /-- `C_IN`, the ratio's denominator c. -/
  cIn : BitVec 20
  /-- `RST`, the reset request. -/
  rst : Bool
  deriving DecidableEq, Repr

/-- The selector latch file, the result of the last successful `SELECT` (R22). -/
structure SelLatches where
  /-- `SEL_FOUT`, the clamped frequency. -/
  fout : Freq
  /-- `SEL_FPLL`, the PLL target frequency. -/
  fpll : Freq
  /-- `SEL_FWORK`, the working frequency. -/
  fwork : Freq
  /-- `SEL_RDIV`, the R-divider log2 code. -/
  rdiv : RDivCode
  /-- `SEL_D4`, the divide-by-4 flag. -/
  d4 : Bool
  /-- `SEL_INT`, DividerMode: true is Integer. -/
  int : Bool
  deriving DecidableEq, Repr

/-- The image buffer `IMG[0]` to `IMG[7]` (R24), byte 0 first (20_memory.md R50). -/
structure Image where
  b0 : Byte
  b1 : Byte
  b2 : Byte
  b3 : Byte
  b4 : Byte
  b5 : Byte
  b6 : Byte
  b7 : Byte
  deriving DecidableEq, Repr

/-- The state (R20), with the command index (R29) and the model's own count of reset events. The configuration is not state. -/
structure State where
  /-- The operand ports (R21). -/
  ports : Ports
  /-- The selector latches (R22); while `SELV` = 0 a host read does not return them (R23). -/
  sel : SelLatches
  /-- The image buffer (R24); while `IMGV` = 0 a host read does not return it. -/
  img : Image
  /-- The status register (R25). -/
  status : Byte
  /-- The index of the next command in the host's stream (R29). -/
  index : Nat
  /-- The MODEL'S OWN field: how many reset events there have been. It only tells the free values of
  unwritten storage apart (assumption log entry 4). -/
  resets : Nat
  deriving DecidableEq, Repr

/-- The latch file after reset. The spec says "unspecified"; zero is the model's choice (DESIGN CHOICE, unsafe, log entry 2). -/
def SelLatches.reset : SelLatches := ⟨0, 0, 0, 0, false, false⟩

/-- The image buffer after reset. The spec says "unspecified"; zero is the model's choice (DESIGN CHOICE, unsafe, log entry 3). -/
def Image.reset : Image := ⟨0, 0, 0, 0, 0, 0, 0, 0⟩

/-- The ports before the host has driven them: all zero, `RST` not asserted (DESIGN CHOICE, unsafe, log entry 5). -/
def Ports.idle : Ports := ⟨0, 0, 0, 0, 0, false⟩

/-- The machine right after reset (R31, 70_reset_and_hazards.md R220): `STATUS` = 0x00, latches and image unwritten. -/
def State.reset : State where
  ports := Ports.idle
  sel := SelLatches.reset
  img := Image.reset
  status := 0x00
  index := 0
  resets := 0

/-- What stops the machine: nothing. "Every command completes in one step whatever its operands, for all 256 command words and
all port values" (70_reset_and_hazards.md R241), and an error is recorded, not a stop (60_exceptions.md R180). The type has
no constructor, so no step can answer a fault (DEDUCED, unsafe: log entry 11 says what that
leaves out). -/
inductive Fault where
  deriving DecidableEq, Repr

/-- Why an instruction would have no meaning. -/
inductive Refusal where
  /-- An instruction not modelled yet, by its mnemonic in the opcode table. No arm raises it: every instruction has its
  meaning. Safe. -/
  | notModelled (mnemonic : String)
  deriving DecidableEq, Repr

/-- What a step answers. -/
abbrev Result := Host.Outcome State Fault Refusal

end Sys2Proof.Machine
end

