-- ==== Sys2Proof/Machine/Flags.lean ====
section
/-! DEFINITION. The status register's bits (10_state.md rule R25) and the error codes (60_exceptions.md rule R181). The block has
no condition codes (R27). -/

namespace Sys2Proof.Machine

/-- The error conditions (60_exceptions.md R181). -/
inductive ErrorCode where
  /-- `E_ILL`, raised by a word that decodes `ILLEGAL` (R183). -/
  | ill
  /-- `E_RNG`, raised by a fractional-path encode whose ratio operands fail the contract (R184). -/
  | rng
  /-- `E_NOSEL`, raised by `ENCMS.S` while `SELV` = 0 (R185). -/
  | nosel
  deriving DecidableEq, Repr

/-- The cause code: the number of the condition's `STATUS` bit (R181). -/
def ErrorCode.code : ErrorCode → Nat
  | .ill => 4
  | .rng => 5
  | .nosel => 6

/-- The kind of an image, `IMGK`: 0 is the PLL form, 1 the MultiSynth form (R25). -/
inductive ImageKind where
  | pll
  | multiSynth
  deriving DecidableEq, Repr

/-- The bit `IMGK` of a kind (R25). -/
def ImageKind.bit : ImageKind → Bool
  | .pll => false
  | .multiSynth => true

/-- The byte with bit k alone set. -/
def oneBit (k : Nat) : Byte := 1#8 <<< k

/-- `STATUS[k] <- 1`, the other bits kept. -/
def setBit (st : Byte) (k : Nat) : Byte := st ||| oneBit k

/-- `STATUS[k] <- 0`, the other bits kept. -/
def clearBit (st : Byte) (k : Nat) : Byte := st &&& ~~~(oneBit k)

/-- `SELV`: the selector latches hold a value. -/
def statusSelv (st : Byte) : Bool := st.getLsbD 0
/-- `IMGV`: `IMG` holds an image. -/
def statusImgv (st : Byte) : Bool := st.getLsbD 1
/-- `IMGK`: the kind of the image in `IMG`. -/
def statusImgk (st : Byte) : Bool := st.getLsbD 2
/-- The sticky bit of an error condition. -/
def statusError (e : ErrorCode) (st : Byte) : Bool := st.getLsbD e.code

/-- `STATUS` after a successful `SELECT`: `SELV` = 1 and "no other `STATUS` bit changes" (R141). -/
def statusAfterSelect (st : Byte) : Byte := setBit st 0

/-- `STATUS` after a successful encode: `IMGV` = 1 and `IMGK` the image's kind (R110, R120). -/
def statusAfterEncode (k : ImageKind) (st : Byte) : Byte :=
  match k with
  | .pll => clearBit (setBit st 1) 2
  | .multiSynth => setBit (setBit st 1) 2

/-- `STATUS` after error E is recorded: its sticky bit is set, nothing else (R181, R182). -/
def statusAfterError (e : ErrorCode) (st : Byte) : Byte := setBit st e.code

end Sys2Proof.Machine
end

