-- ==== Sys2Proof/Machine/Ops.lean ====
section
/-! DEFINITION. The named operations over the state: sampling the command port, completing a command, recording an error,
writing the latches and the image, the reset event, and the host's reads. Every command is one atomic step (10_state.md
rule R28), so each operation gives the whole next state at once. -/

namespace Sys2Proof.Machine

/-- The command word, sampled from `CMD` (10_state.md R21, R28; 20_memory.md R59). -/
def fetch (s : State) : Byte := s.ports.cmd

/-- `RST` is asserted (R21, 70_reset_and_hazards.md R220). -/
def resetRequested (s : State) : Bool := s.ports.rst

/-- The host puts a word on `CMD` with `RST` not asserted: the next event of the block is that command. -/
def driveCommand (w : Byte) (s : State) : State :=
  { s with ports := { s.ports with cmd := w, rst := false } }

/-- The host asserts or releases `RST` (R220). -/
def driveReset (r : Bool) (s : State) : State := { s with ports := { s.ports with rst := r } }

/-- The host drives `FREQ_IN` (R21). -/
def driveFreq (f : Freq) (s : State) : State := { s with ports := { s.ports with freqIn := f } }

/-- The host drives the ratio ports `A_IN`, `B_IN` and `C_IN` (R21). -/
def driveRatio (a : BitVec 32) (b c : BitVec 20) (s : State) : State :=
  { s with ports := { s.ports with aIn := a, bIn := b, cIn := c } }

/-- "Each command advances n by exactly 1" (R29). -/
def advance (s : State) : State := { s with index := s.index + 1 }

/-- `raise E()`, the one way an error is taken (60_exceptions.md R182): its sticky bit is set, the command is dropped with no other
effect, and the index advances. No control is transferred and nothing is saved (R180, R189). There is no return from it
(R190). -/
def raiseError (e : ErrorCode) (s : State) : State :=
  advance { s with status := statusAfterError e s.status }

/-- All six selector latches are written in one step, with `SELV` = 1 (10_state.md R22, 41_selector.md R141). -/
def writeLatches (p : SelLatches) (s : State) : State :=
  advance { s with sel := p, status := statusAfterSelect s.status }

/-- All eight bytes of `IMG` are written in one step, with `IMGV` = 1 and `IMGK` (20_memory.md R51). -/
def writeImage (k : ImageKind) (im : Image) (s : State) : State :=
  advance { s with img := im, status := statusAfterEncode k s.status }

/-- The reset event (70_reset_and_hazards.md R220): `STATUS` = 0x00, latches and image unwritten (stored as after reset); the
ports and the configuration are unchanged. It is no command, so the command index stays (DESIGN CHOICE, unsafe: log entry 7). -/
def resetEvent (s : State) : State :=
  { s with
    sel := SelLatches.reset
    img := Image.reset
    status := 0x00
    resets := s.resets + 1 }

/-! ### Host reads

A read has no side effect (20_memory.md R52, R53), so each is a function of the state. While no command has written the latch
or the image since reset, the value is free (10_state.md R23, R24; log entry 4). -/

/-- `IMG[k]` of an image; the index is a 3-bit value, so none is out of range (R52). -/
def Image.byte (im : Image) (k : BitVec 3) : Byte :=
  if k = 0 then im.b0 else if k = 1 then im.b1 else if k = 2 then im.b2 else if k = 3 then im.b3
  else if k = 4 then im.b4 else if k = 5 then im.b5 else if k = 6 then im.b6 else im.b7

/-- The host reads `STATUS`, whole, as one byte (R53). -/
def readStatus (s : State) : Byte := s.status

/-- The host reads `SEL_FOUT`. -/
def readFout (s : State) : Freq :=
  if statusSelv s.status then s.sel.fout else Config.unwrittenFout s.resets s.index

/-- The host reads `SEL_FPLL`. -/
def readFpll (s : State) : Freq :=
  if statusSelv s.status then s.sel.fpll else Config.unwrittenFpll s.resets s.index

/-- The host reads `SEL_FWORK`. -/
def readFwork (s : State) : Freq :=
  if statusSelv s.status then s.sel.fwork else Config.unwrittenFwork s.resets s.index

/-- The host reads `SEL_RDIV`. -/
def readRdiv (s : State) : RDivCode :=
  if statusSelv s.status then s.sel.rdiv else Config.unwrittenRdiv s.resets s.index

/-- The host reads `SEL_D4`. -/
def readD4 (s : State) : Bool :=
  if statusSelv s.status then s.sel.d4 else Config.unwrittenD4 s.resets s.index

/-- The host reads `SEL_INT`. -/
def readInt (s : State) : Bool :=
  if statusSelv s.status then s.sel.int else Config.unwrittenInt s.resets s.index

/-- The host reads `IMG[k]`. -/
def readImg (k : BitVec 3) (s : State) : Byte :=
  if statusImgv s.status then s.img.byte k else Config.unwrittenImg s.resets s.index k

end Sys2Proof.Machine
end

