-- ==== Sys2Proof/Machine/Operands.lean ====
section
/-! DEFINITION. Operand assembly (30_encoding.md rules R72, R73). All operands are unsigned; none is extended, scaled or
shifted, and the arithmetic is over the integers (00_scope.md rule R8). -/

namespace Sys2Proof.Machine

/-- A ratio a + b/c as the encoder reads it, as integers (R8). -/
structure Ratio where
  a : Nat
  b : Nat
  c : Nat
  deriving DecidableEq, Repr

/-- The ratio operands: `a = A_IN`, `b = B_IN`, `c = C_IN` (R72). -/
def ratioOperands (s : State) : Ratio := ⟨s.ports.aIn.toNat, s.ports.bIn.toNat, s.ports.cIn.toNat⟩

/-- The frequency operand of `SELECT`: `f = FREQ_IN` (R73). -/
def freqOperand (s : State) : Nat := s.ports.freqIn.toNat

/-- The mode operands of a MultiSynth encode. -/
structure ModeFields where
  int : Bool
  d4 : Bool
  rdiv : RDivCode
  deriving DecidableEq, Repr

/-- The mode operands of `ENCMS.S`: `SEL_INT`, `SEL_D4` and `SEL_RDIV` (R73). -/
def latchedMode (s : State) : ModeFields := ⟨s.sel.int, s.sel.d4, s.sel.rdiv⟩

end Sys2Proof.Machine
end

