-- ==== Sys2Proof/Machine/Encoder.lean ====
section
/-! DEFINITION. The register encoder (40_encoder.md): field arithmetic, the image layout, the reference decoder, and the
meanings of `ENCPLL`, `ENCMS` and `ENCMS.S`. -/

namespace Sys2Proof.Machine

/-! ### Field arithmetic -/

/-- `temp = (128 * b) div c` (R102). -/
def ratioTemp (r : Ratio) : Nat := (128 * r.b) / r.c

/-- `P1 = 128 * a + temp - 512`, over the integers, so it may be negative (R102, R8). -/
def ratioP1 (r : Ratio) : Int := 128 * (r.a : Int) + (ratioTemp r : Int) - 512

/-- `P2 = 128 * b - c * temp`, over the integers (R102). -/
def ratioP2 (r : Ratio) : Int := 128 * (r.b : Int) - (r.c : Int) * (ratioTemp r : Int)

/-- The ratio operand contract `ratioOK` (R101); c = 0 fails before any division (R110). -/
def ratioOK (r : Ratio) : Bool :=
  decide (1 ≤ r.c) && decide (r.b < r.c) && decide (0 ≤ ratioP1 r ∧ ratioP1 r < 2 ^ 18)

/-- The three register fields: P1 of 18 bits, P2 and P3 of 20 bits (30_encoding.md R80). -/
structure Fields where
  p1 : BitVec 18
  p2 : BitVec 20
  p3 : BitVec 20
  deriving DecidableEq, Repr

/-- The fractional path (R102): `P1[17:0]`, `P2[19:0]`, `P3[19:0]` (R110). -/
def fractionalFields (r : Ratio) : Fields :=
  ⟨BitVec.ofInt 18 (ratioP1 r), BitVec.ofInt 20 (ratioP2 r), BitVec.ofNat 20 r.c⟩

/-- The integer-mode override: P1 = 0, P2 = 0, P3 = 1 (R103). -/
def overrideFields : Fields := ⟨0, 0, 1⟩

/-- The divide-by-4 field: `0b11` when the flag is 1, else `0b00` (R106, 30_encoding.md R84). -/
def divBy4Field (d4 : Bool) : BitVec 2 := if d4 then 0b11#2 else 0b00#2

/-! ### The register image -/

/-- `pack(P1, P2, P3, rdiv, dv4)`, the byte layout of 30_encoding.md R81. -/
def pack (f : Fields) (rdiv : RDivCode) (dv4 : BitVec 2) : Image where
  b0 := f.p3.extractLsb' 8 8
  b1 := f.p3.extractLsb' 0 8
  b2 := 0#1 ++ rdiv ++ dv4 ++ f.p1.extractLsb' 16 2
  b3 := f.p1.extractLsb' 8 8
  b4 := f.p1.extractLsb' 0 8
  b5 := f.p3.extractLsb' 16 4 ++ f.p2.extractLsb' 16 4
  b6 := f.p2.extractLsb' 8 8
  b7 := f.p2.extractLsb' 0 8

/-- The PLL form is `pack(P1, P2, P3, 0, 0)` (30_encoding.md R81). -/
def packPll (f : Fields) : Image := pack f 0 0

/-- What the reference decoder reads from an image. -/
structure Unpacked where
  fields : Fields
  rdiv : RDivCode
  dv4 : BitVec 2
  deriving DecidableEq, Repr

/-- The reference decoder `unpack` (R107): for tests and proofs, not a command of the block. -/
def unpack (im : Image) : Unpacked where
  fields :=
    ⟨im.b2.extractLsb' 0 2 ++ im.b3 ++ im.b4,
     im.b5.extractLsb' 0 4 ++ im.b6 ++ im.b7,
     im.b5.extractLsb' 4 4 ++ im.b0 ++ im.b1⟩
  rdiv := im.b2.extractLsb' 4 3
  dv4 := im.b2.extractLsb' 2 2

/-- `decodeRatio` of the reference decoder (R107), for P3 ≥ 1. -/
def decodeRatio (f : Fields) : Ratio where
  a := (f.p1.toNat + 512) / 128
  b := (f.p2.toNat + f.p3.toNat * ((f.p1.toNat + 512) % 128)) / 128
  c := f.p3.toNat

/-! ### The encode commands -/

/-- The fields of a MultiSynth encode: the override when int = 1, which neither uses nor checks the ratio (R103), else the
fractional path, none when the operand contract fails (R101). -/
def multiSynthFields (int : Bool) (r : Ratio) : Option Fields :=
  if int then some overrideFields
  else if ratioOK r then some (fractionalFields r)
  else none

/-- The body the MultiSynth commands share (R120, "from a <- A_IN on"). -/
def encodeMultiSynth (m : ModeFields) (s : State) : State :=
  match multiSynthFields m.int (ratioOperands s) with
  | some f => writeImage .multiSynth (pack f m.rdiv (divBy4Field m.d4)) s
  | none => raiseError .rng s

/-- The PLL encode (R110): always the fractional path (R105). -/
def encodePll (s : State) : State :=
  if ratioOK (ratioOperands s) then writeImage .pll (packPll (fractionalFields (ratioOperands s))) s
  else raiseError .rng s

/-- `ENCPLL` (R110). -/
def execEncpll (s : State) : Result := .next (encodePll s)

/-- `ENCMS` (R120). -/
def execEncms (int d4 : Bool) (rdiv : RDivCode) (s : State) : Result :=
  .next (encodeMultiSynth ⟨int, d4, rdiv⟩ s)

/-- `ENCMS.S` (R122): `E_NOSEL` is checked first (60_exceptions.md R187), then the body of `ENCMS` on the latched mode fields. -/
def execEncmsS (s : State) : Result :=
  if statusSelv s.status then .next (encodeMultiSynth (latchedMode s) s)
  else .next (raiseError .nosel s)

end Sys2Proof.Machine
end

