-- ==== Sys2Proof/Machine/Selector.lean ====
section
/-! DEFINITION. The PLL mode selector (41_selector.md): the plan of a requested frequency, and the meanings of `SELECT` and
`NOP`. -/

namespace Sys2Proof.Machine

/-- The selector's result for a requested frequency, a pure function of it and the configuration (R140, R141). The arithmetic
is exact; for a well-formed configuration every result is below 2^32 (R145, 00_scope.md R7 `cfg_fit`). -/
def plan (c : Cfg) (requested : Nat) : SelLatches :=
  let f := clampedFreq c requested
  let r := rdivSelect c f
  let p := pllSelect c f
  { fout := BitVec.ofNat 32 f
    fpll := BitVec.ofNat 32 p.pll
    fwork := BitVec.ofNat 32 r.work
    rdiv := r.rdiv
    d4 := p.d4
    int := dividerInt c r.work }

/-- `SELECT` under a configuration (R141). -/
def selectWith (c : Cfg) (s : State) : State := writeLatches (plan c (freqOperand s)) s

/-- `SELECT` on this chip (R141): no error is possible, every `FREQ_IN` is accepted (R142). -/
def execSelect (s : State) : Result := .next (selectWith Config.cfg s)

/-- `NOP`: do nothing; the command index still advances (R150). -/
def execNop (s : State) : Result := .next (advance s)

end Sys2Proof.Machine
end

