-- ==== Sys2Proof/Machine/Dispatch.lean ====
section
/-! DEFINITION. One arm per command, each one direct call of its meaning. -/

namespace Sys2Proof.Machine

def exec (i : Instr) (s : State) : Host.Outcome State Fault Refusal :=
  match i with
  | .nop => Sys2Proof.Machine.execNop s
  | .select => Sys2Proof.Machine.execSelect s
  | .encpll => Sys2Proof.Machine.execEncpll s
  | .encms int d4 rdiv => Sys2Proof.Machine.execEncms int d4 rdiv s
  | .encmsS => Sys2Proof.Machine.execEncmsS s

end Sys2Proof.Machine
end

