-- ==== Sys2Proof/Machine/Step.lean ====
section
/-! DEFINITION. One step of the block: the reset event when `RST` is asserted, else one command. -/

namespace Sys2Proof.Machine

/-- One event of the block. With `RST` asserted it is the reset event, and no command runs (70_reset_and_hazards.md R220;
DEDUCED, unsafe: log entry 6). Otherwise the word on `CMD` is decoded and executed, or raises `E_ILL` (30_encoding.md R75, 60_exceptions.md R183). -/
def step (s : State) : Host.Outcome State Fault Refusal :=
  if resetRequested s then .next (resetEvent s)
  else
    match decode (fetch s) with
    | .instr i => exec i s
    | .illegal _ => .next (raiseError .ill s)

/-- s with that word on `CMD` and `RST` not asserted, so that the very next step runs it. There is no program memory: the host
drives the word (10_state.md R29; DESIGN CHOICE: log entry 8 says how a program comes to run). -/
def State.withFetchWord (s : State) (nbits w : Nat) : State :=
  driveCommand (BitVec.ofNat 8 (w % 2 ^ nbits)) s

end Sys2Proof.Machine
end

