-- ==== Sys2Proof/Machine/HostSide.lean ====
section
/-! DEFINITION. The other agent: what the host does to the block (60_exceptions.md rules R193, R202), assembler lines as
transactions (30_encoding.md R77), and the host protocol `setFrequency` (60_exceptions.md R200). None of it is the
block's: the block is `step`. The parts of the protocol whose values the source does not give are arguments or opaque
(DESIGN CHOICE: assumption log entries 13 and 20). -/

namespace Sys2Proof.Machine

/-- Go on with the state a step answered; a stop ends the run. -/
def andThen {α β : Type} (o : Host.Outcome α Fault Refusal) (k : α → Host.Outcome β Fault Refusal) :
    Host.Outcome β Fault Refusal :=
  match o with
  | .next a => k a
  | .fault r => .fault r
  | .refused r => .refused r

/-! ### The host's liberties (R202) -/

/-- What the host may do between commands; reading the outputs changes nothing and is no act. -/
inductive HostAct where
  /-- Drive `FREQ_IN`: any value of the port's width. -/
  | driveFreq (f : Freq)
  /-- Drive `A_IN`, `B_IN` and `C_IN`: any values of the ports' widths. -/
  | driveRatio (a : BitVec 32) (b c : BitVec 20)
  /-- Issue a command: any of the 256 words. -/
  | issue (w : Byte)
  /-- Assert `RST` between commands, and release it. -/
  | reset
  deriving DecidableEq, Repr

/-- The state after one act of the host. -/
def hostAct (x : HostAct) (s : State) : Result :=
  match x with
  | .driveFreq f => .next (driveFreq f s)
  | .driveRatio a b c => .next (driveRatio a b c s)
  | .issue w => step (driveCommand w s)
  | .reset => andThen (step (driveReset true s)) fun t => .next (driveReset false t)

/-- The host's acts one after another, in order (20_memory.md R56). -/
def hostRun : List HostAct → State → Result
  | [], s => .next s
  | x :: xs, s => andThen (hostAct x s) (hostRun xs)

/-! ### Assembler lines (R77) -/

/-- The host drives the ratio ports of a line; an omitted operand leaves its port as it was (R77). -/
def driveArgs (r : RatioArgs) (s : State) : State :=
  driveRatio ((r.a.map (BitVec.ofNat 32)).getD s.ports.aIn) ((r.b.map (BitVec.ofNat 20)).getD s.ports.bIn)
    ((r.c.map (BitVec.ofNat 20)).getD s.ports.cIn) s

/-- The host drives the operand ports a line names (R77). -/
def driveLine (l : Line) (s : State) : State :=
  match l with
  | .nop => s
  | .select f => driveFreq (BitVec.ofNat 32 f) s
  | .encpll r => driveArgs r s
  | .encms r _ _ _ => driveArgs r s
  | .encmsS r => driveArgs r s
  | .encmsDiv4 r => driveArgs r s
  | .encmsFrac r _ => driveArgs r s

/-- One line is one command transaction (R77): drive its operands, issue its command. None for an ill-formed line. -/
def runLine (l : Line) (s : State) : Option Result :=
  l.instr.map fun i => hostAct (.issue (encode i)) (driveLine l s)

/-! ### The protocol `setFrequency` (R200) -/

/-- The ratio operands as the host drives them. -/
structure RatioWords where
  a : BitVec 32
  b : BitVec 20
  c : BitVec 20
  deriving DecidableEq, Repr

/-- The external RatioApproximator `approximate(numerator, denominator, maxDenominator)` (00_scope.md R14), a parameter
(93_implementation_defined.md I7). -/
abbrev Approximator := Nat → Nat → Nat → RatioWords

/-- The chip's PLLs (00_scope.md R11). -/
inductive PllName where
  | a
  | b
  deriving DecidableEq, Repr

/-- The clock source a channel's control byte can name: "PLL A/B or crystal bypass" (R200 step 6). -/
inductive ClockSource where
  | pll (p : PllName)
  | crystalBypass
  deriving DecidableEq, Repr

/-- The chip's output channels (R11). -/
inductive Channel where
  | ch0
  | ch1
  | ch2
  deriving DecidableEq, Repr

/-- `BASE(pllSel)` (20_memory.md R54). -/
def pllBase : PllName → Byte
  | .a => Config.pllABase
  | .b => Config.pllBBase

/-- `BASE(ch)` (20_memory.md R54). -/
def msBase : Channel → Byte
  | .ch0 => Config.ms0Base
  | .ch1 => Config.ms1Base
  | .ch2 => Config.ms2Base

/-- What the host does to the chip. The register of the PLL reset and the layout of the control byte are not in the source
(91_not_in_source.md N5), so these are named without them. -/
inductive ChipEvent where
  /-- Write one byte to a chip register. -/
  | writeRegister (register : Nat) (value : Byte)
  /-- Write the PLL-reset register, "asserting reset for both PLLs". -/
  | resetPlls
  /-- Rebuild and write the channel's control byte: its clock source and its integer-mode bit. Its drive strength and its
  invert bit (R200 step 6: kept) have no value in the source and are not named (log entry 20). -/
  | writeControl (ch : Channel) (source : ClockSource) (intMode : Bool)
  /-- Set the channel's bit in the output-enable register. -/
  | enableOutput (ch : Channel)
  deriving DecidableEq, Repr

/-- `MemWrite(BASE, 8, IMG[0..7])`: byte `IMG[k]` goes to chip register base + k (20_memory.md R54). -/
def transferImage (base : Byte) (s : State) : List ChipEvent :=
  (List.range 8).map fun k => .writeRegister (base.toNat + k) (readImg (BitVec.ofNat 3 k) s)

/-- The block's state after the protocol, and what the host did to the chip, in order. -/
structure ProtocolResult where
  block : State
  chip : List ChipEvent
  deriving DecidableEq, Repr

/-- `FREQ_IN <- f ; issue SELECT`. -/
def issueSelect (f : Freq) (s : State) : Result := hostAct (.issue (encode .select)) (driveFreq f s)

/-- `A_IN, B_IN, C_IN <- a, b, c ; issue` an encode command. -/
def issueEncode (i : Instr) (r : RatioWords) (s : State) : Result :=
  hostAct (.issue (encode i)) (driveRatio r.a r.b r.c s)

/-- The clock source step 6 writes: the crystal where the host bypasses the PLLs, else the protocol's PLL (log entry 20). -/
def controlSource (bypass : Bool) (pllSel : PllName) : ClockSource :=
  if bypass then .crystalBypass else .pll pllSel

/-- `setFrequency(ch, pllSel, fReq)`, the six steps of R200. `xtal` is the effective crystal frequency (00_scope.md R12).
`bypass` says whether step 6 names the crystal as the clock source: R200 lists "PLL A/B or crystal bypass" and gives no condition
for the bypass, so it is an argument, either value (DESIGN CHOICE: log entry 20). -/
def setFrequency (approx : Approximator) (xtal maxden : Nat) (bypass : Bool) (ch : Channel) (pllSel : PllName) (fReq : Freq)
    (s : State) : Host.Outcome ProtocolResult Fault Refusal :=
  andThen (issueSelect fReq s) fun s1 =>
  if xtal = 0 then .next ⟨s1, []⟩
  else
    andThen (issueEncode .encpll (approx (readFpll s1).toNat xtal maxden) s1) fun s2 =>
    andThen (issueEncode .encmsS (approx (readFpll s2).toNat (readFwork s2).toNat maxden) s2) fun s3 =>
    .next
      { block := s3
        chip := transferImage (pllBase pllSel) s2 ++ [.resetPlls] ++ transferImage (msBase ch) s3
          ++ [.writeControl ch (controlSource bypass pllSel) (readInt s3), .enableOutput ch] }

end Sys2Proof.Machine
end

