-- ==== Sys2Proof/Safety.lean ====
section
/-! DEFINITION. The terms the claims use: what an image, a range or an error is in plain arithmetic, written from the rules
beside the machine and not from its functions; and what holds in every state a run of the block reaches. -/

namespace Sys2Proof.Machine

/-! ### In plain arithmetic -/

/-- The operand range of the fractional path: c ≥ 1, b < c and 4 ≤ a ≤ 2051 (40_encoder.md R104, 60_exceptions.md R184). -/
abbrev RatioInRange (r : Ratio) : Prop := 1 ≤ r.c ∧ r.b < r.c ∧ 4 ≤ r.a ∧ r.a ≤ 2051

/-- The eight bytes of the image layout (30_encoding.md R81) for fields given as numbers. `mode` is what byte 2 holds
above P1[17:16]. -/
def layout (p1 p2 p3 mode : Nat) : Image where
  b0 := BitVec.ofNat 8 (p3 / 256)
  b1 := BitVec.ofNat 8 p3
  b2 := BitVec.ofNat 8 (mode + p1 / 65536)
  b3 := BitVec.ofNat 8 (p1 / 256)
  b4 := BitVec.ofNat 8 p1
  b5 := BitVec.ofNat 8 (16 * (p3 / 65536) + p2 / 65536)
  b6 := BitVec.ofNat 8 (p2 / 256)
  b7 := BitVec.ofNat 8 p2

/-- The mode part of byte 2 in the MultiSynth form: the R-divider code at bits 6:4, both bits 3:2 when the flag is set. -/
def modeBits (d4 : Bool) (rdiv : RDivCode) : Nat := 16 * rdiv.toNat + if d4 then 12 else 0

/-- The image of the fractional path (40_encoder.md R102) with the given mode part. -/
def fractionalLayout (r : Ratio) (mode : Nat) : Image :=
  layout (128 * r.a + 128 * r.b / r.c - 512) (128 * r.b - r.c * (128 * r.b / r.c)) r.c mode

/-- The state after an error is recorded: bit `code` of `STATUS` set, the index advanced, nothing else (60_exceptions.md R182). -/
def recorded (code : Nat) (s : State) : State :=
  { s with status := s.status ||| BitVec.ofNat 8 (2 ^ code), index := s.index + 1 }

/-- The command is an encode that takes the fractional path in this state: `ENCPLL`, or a MultiSynth encode whose resolved
int operand is 0 (60_exceptions.md R181, R187). -/
def takesFractionalPath (i : Instr) (s : State) : Bool :=
  match i with
  | .nop => false
  | .select => false
  | .encpll => true
  | .encms int _ _ => !int
  | .encmsS => !s.sel.int

/-- The code of the error the command on `CMD` raises, if it raises one, by the order of checks of 60_exceptions.md R187. -/
def commandError (s : State) : Option Nat :=
  match decode s.ports.cmd with
  | .illegal _ => some 4
  | .instr i =>
    if i = .encmsS ∧ s.status.getLsbD 0 = false then some 6
    else if takesFractionalPath i s = true ∧ ¬ RatioInRange (ratioOperands s) then some 5
    else none

/-- The mode fields an encode puts into its image: none in the PLL form (30_encoding.md R79), those of the word for `ENCMS`, the
latched ones for `ENCMS.S` (30_encoding.md R72, R73). -/
def packedModeBits (i : Instr) (s : State) : Nat :=
  match i with
  | .nop => 0
  | .select => 0
  | .encpll => 0
  | .encms _ d4 rdiv => modeBits d4 rdiv
  | .encmsS => modeBits s.sel.d4 s.sel.rdiv

/-- The image of an encode that completes: the fractional path's, or the integer override's fields (40_encoder.md R102, R103). -/
def encodedImage (i : Instr) (s : State) : Image :=
  if takesFractionalPath i s = true then fractionalLayout (ratioOperands s) (packedModeBits i s)
  else layout 0 0 1 (packedModeBits i s)

/-! ### What the host drives and reads -/

/-- The value of the key `f` of an assembler line, for `FREQ_IN` (30_encoding.md R77). -/
def lineFreq : Line → Option Nat
  | .nop => none
  | .select f => some f
  | .encpll _ => none
  | .encms _ _ _ _ => none
  | .encmsS _ => none
  | .encmsDiv4 _ => none
  | .encmsFrac _ _ => none

/-- The values of the keys `a`, `b` and `c` of an assembler line (R77). -/
def lineRatio : Line → RatioArgs
  | .nop => ⟨none, none, none⟩
  | .select _ => ⟨none, none, none⟩
  | .encpll r => r
  | .encms r _ _ _ => r
  | .encmsS r => r
  | .encmsDiv4 r => r
  | .encmsFrac r _ => r

/-- A port of any width after a line: it holds the value the line gives, or what it held before where the line gives none (R77). -/
def PortDriven {w : Nat} (given : Option Nat) (before after : BitVec w) : Prop :=
  (∀ v, given = some v → after.toNat = v) ∧ (given = none → after = before)

/-- Host reads of the six selector latches return these values (20_memory.md R53). -/
def ReadsPlan (s : State) (p : SelLatches) : Prop :=
  readFout s = p.fout ∧ readFpll s = p.fpll ∧ readFwork s = p.fwork ∧ readRdiv s = p.rdiv ∧ readD4 s = p.d4 ∧ readInt s = p.int

/-- Host reads of `IMG[0]` to `IMG[7]` return these eight bytes (20_memory.md R50, R52). -/
def ReadsImage (s : State) (im : Image) : Prop :=
  readImg 0 s = im.b0 ∧ readImg 1 s = im.b1 ∧ readImg 2 s = im.b2 ∧ readImg 3 s = im.b3 ∧
  readImg 4 s = im.b4 ∧ readImg 5 s = im.b5 ∧ readImg 6 s = im.b6 ∧ readImg 7 s = im.b7

/-! ### Invariants -/

/-- "bits 3 and 7 are always 0" (10_state.md R25). -/
def StatusLegal (st : Byte) : Prop := st.getLsbD 3 = false ∧ st.getLsbD 7 = false

/-- The values the selector latches may hold after a `SELECT` (10_state.md R22, 41_selector.md R143 to R147). -/
structure SelLegal (c : Cfg) (p : SelLatches) : Prop where
  /-- `SEL_FOUT` is in `[MIN_OUT, MAX_OUT]`. -/
  fout : c.minOut ≤ p.fout.toNat ∧ p.fout.toNat ≤ c.maxOut
  /-- `SEL_FPLL` is in `[PLL_MIN, PLL_MAX]`. -/
  fpll : c.pllMin ≤ p.fpll.toNat ∧ p.fpll.toNat ≤ c.pllMax
  /-- `SEL_FWORK` is `SEL_FOUT` times the R-divider value, and at least `MIN_OUT`. -/
  fwork : p.fwork.toNat = p.fout.toNat * 2 ^ p.rdiv.toNat ∧ c.minOut ≤ p.fwork.toNat
  /-- `SEL_RDIV` is 0, 2, 4 or 7 only. -/
  rdiv : p.rdiv = 0 ∨ p.rdiv = 2 ∨ p.rdiv = 4 ∨ p.rdiv = 7
  /-- `SEL_D4` is set only in the ×4 band. -/
  d4 : p.d4 = true → c.b4Lo ≤ p.fout.toNat ∧ p.fout.toNat < c.b4Hi ∧ p.fpll.toNat = 4 * p.fout.toNat
  /-- `SEL_INT` is DividerMode of the working frequency. -/
  int : p.int = true ↔ c.divBy4Thr ≤ p.fwork.toNat

/-- What an image in `IMG` looks like: byte 2 bit 7 is 0 (30_encoding.md R83), the divide-by-4 field is 00 or 11 (R84), both
mode fields are zero in the PLL form (R79), P3 is at least 1 and P2 is below P3 (40_encoder.md R103, R104). -/
structure ImgLegal (imgk : Bool) (im : Image) : Prop where
  bit7 : im.b2.getLsbD 7 = false
  dv4 : (unpack im).dv4 = 0b00#2 ∨ (unpack im).dv4 = 0b11#2
  pllForm : imgk = false → (unpack im).rdiv = 0 ∧ (unpack im).dv4 = 0
  p3 : 1 ≤ (unpack im).fields.p3.toNat
  p2 : (unpack im).fields.p2.toNat < (unpack im).fields.p3.toNat

/-- The invariant of the block: the status register's reserved bits read 0; while `SELV` = 1 the latches hold a legal plan;
while `IMGV` = 1 the buffer holds a legal image; `IMGK` is 0 while there is no image (10_state.md R22, R24, R25). The last clause
follows R25's table (every encode that writes `IMGK` sets `IMGV`, reset clears both) and excludes `IMGV` = 0 with `IMGK` = 1, which
R25's sentence "Any combination of the other six bits can occur" allows (DESIGN CHOICE, unsafe: log entry 19). -/
structure StateInv (s : State) : Prop where
  status : StatusLegal s.status
  sel : statusSelv s.status = true → SelLegal Config.cfg s.sel
  img : statusImgv s.status = true → ImgLegal (statusImgk s.status) s.img
  imgk : statusImgv s.status = false → statusImgk s.status = false

end Sys2Proof.Machine
end

