-- ==== Sys2Proof/Certificates/Slice0/Obligations.lean ====
section
/-! DEFINITION. The statements for the provers. Each docstring names the rule or section of spec/ it comes from. Where a
statement rests on a choice of the model, its docstring names the assumption log entry. -/

open Sys2Proof Sys2Proof.Machine

/-! ### The step, decoding and encoding -/

/-- A step runs the decoded command (10_state.md R28). -/
def Obligations.StepRunsDecodedCommand : Prop :=
  ∀ (s : State) (i : Instr), s.ports.rst = false → decode s.ports.cmd = .instr i → step s = exec i s

/-- 30_encoding.md R74: the decoder's table, and the counts of legal words. -/
def Obligations.DecoderFollowsTable : Prop :=
  (∀ w : Byte,
    (decode w).toOption =
      if w.toNat % 4 = 0 then (if w.toNat / 4 = 0 then some .nop else none)
      else if w.toNat % 4 = 1 then (if w.toNat / 4 = 0 then some .select else none)
      else if w.toNat % 4 = 2 then (if w.toNat / 4 = 0 then some .encpll else none)
      else if w.toNat / 128 = 0 then
        some (.encms (w.toNat / 4 % 2 == 1) (w.toNat / 8 % 2 == 1) (BitVec.ofNat 3 (w.toNat / 16)))
      else if w.toNat / 4 % 32 = 0 then some .encmsS else none) ∧
  ((List.range 256).filter fun w => (decode (BitVec.ofNat 8 w)).toOption.isSome).length = 36 ∧
  ((List.range 256).filter fun w => (decode (BitVec.ofNat 8 w)).toOption.map Instr.row == some rowEncms).length = 32 ∧
  ((List.range 256).filter fun w => (decode (BitVec.ofNat 8 w)).toOption.isNone).length = 220

/-- 30_encoding.md R71: a word selects the row of its command and no other; an illegal word selects none. -/
def Obligations.OpcodeMapSelectsOneRow : Prop :=
  opcodeMap =
    [⟨"NOP", 0x00, 0xFF⟩, ⟨"SELECT", 0x01, 0xFF⟩, ⟨"ENCPLL", 0x02, 0xFF⟩, ⟨"ENCMS", 0x03, 0x83⟩, ⟨"ENCMS.S", 0x83, 0xFF⟩] ∧
  ∀ w : Byte,
    opcodeMap.filter (fun r => r.selects w) =
      match decode w with
      | .instr i => [i.row]
      | .illegal _ => []

/-- Words written out from the patterns of 30_encoding.md R71 and the vectors of 95_test_vectors.md. -/
def Obligations.KnownWordsDecode : Prop :=
  decode 0b00000000#8 = .instr .nop ∧ decode 0b00000001#8 = .instr .select ∧
  decode 0b00000010#8 = .instr .encpll ∧ decode 0b01110011#8 = .instr (.encms false false 7) ∧
  decode 0b00001111#8 = .instr (.encms true true 0) ∧ decode 0b10000011#8 = .instr .encmsS ∧
  (decode 0x87#8).toOption = none ∧ (decode 0x72#8).toOption = none

/-- Decode and encode agree, in both directions (30_encoding.md Part 1): no bit of a command word is dropped. -/
def Obligations.DecodeEncodeAgree : Prop :=
  (∀ i : Instr, decode (encode i) = .instr i) ∧ ∀ (w : Byte) (i : Instr), decode w = .instr i → encode i = w

/-- 60_exceptions.md R183: which words are illegal, how many, and that such a word sets `E_ILL`. -/
def Obligations.IllegalWordRaisesIll : Prop :=
  (∀ w : Byte,
    (decode w).toOption = none ↔
      (w.toNat % 4 ≠ 3 ∧ w.toNat / 4 ≠ 0) ∨ (w.toNat % 4 = 3 ∧ w.toNat / 128 = 1 ∧ w.toNat / 4 % 32 ≠ 0)) ∧
  ((List.range 256).filter fun w => (decode (BitVec.ofNat 8 w)).toOption.isNone).length = 220 ∧
  ∀ s : State, s.ports.rst = false → (decode s.ports.cmd).toOption = none →
    step s = .next { s with status := s.status ||| 0x10#8, index := s.index + 1 }

/-- 30_encoding.md R78: the pseudo-commands' words and the operand spellings. -/
def Obligations.PseudoCommandWords : Prop :=
  (∀ r : RatioArgs, r.wf = true →
    (Line.encmsDiv4 r).instr = some (.encms true true 0) ∧ encode (.encms true true 0) = 0x0F#8) ∧
  (∀ (r : RatioArgs) (k : Nat), r.wf = true → k < 8 →
    (Line.encmsFrac r k).instr = some (.encms false false (BitVec.ofNat 3 k)) ∧
    encode (.encms false false (BitVec.ofNat 3 k)) = BitVec.ofNat 8 (3 ||| (k <<< 4))) ∧
  rdiv1 = 0 ∧ rdiv4 = 2 ∧ rdiv16 = 4 ∧ rdiv128 = 7

/-- An assembler line is one command transaction (30_encoding.md Part 1, R77): it runs its command on the ports it drives.
Each of `FREQ_IN`, `A_IN`, `B_IN` and `C_IN` holds the value the line gives for it, and one the line omits, alone or with others,
keeps its value; nothing else is driven but `CMD`. That issuing the command also releases `RST` is the model's choice (log entry
8, `driveCommand`), and an ill-formed line has no `instr` (log entry 16). -/
def Obligations.LineIsOneTransaction : Prop :=
  ∀ (l : Line) (i : Instr) (s : State), l.instr = some i →
    runLine l s = some (exec i (driveCommand (encode i) (driveLine l s))) ∧
    PortDriven (lineFreq l) s.ports.freqIn (driveLine l s).ports.freqIn ∧
    PortDriven (lineRatio l).a s.ports.aIn (driveLine l s).ports.aIn ∧
    PortDriven (lineRatio l).b s.ports.bIn (driveLine l s).ports.bIn ∧
    PortDriven (lineRatio l).c s.ports.cIn (driveLine l s).ports.cIn ∧
    (driveLine l s).ports.cmd = s.ports.cmd ∧ (driveLine l s).ports.rst = s.ports.rst ∧
    driveLine l s = { s with ports := (driveLine l s).ports } ∧
    driveCommand (encode i) (driveLine l s) =
      { driveLine l s with ports := { (driveLine l s).ports with cmd := encode i, rst := false } }

/-! ### NOP -/

/-- 41_selector.md R150: `NOP` is word 0x00 and only advances the command index. -/
def Obligations.NopOnlyAdvances : Prop :=
  encode .nop = 0x00#8 ∧ ∀ s : State, exec .nop s = .next { s with index := s.index + 1 }

/-! ### SELECT -/

/-- 41_selector.md R142: the clamp, for every `FREQ_IN` and with no error; the later choices read the clamped frequency. -/
def Obligations.SelectClampsRequest : Prop :=
  ∀ s : State, ∃ t, exec .select s = .next t ∧
    t.sel.fout.toNat = min (max s.ports.freqIn.toNat Config.cfg.minOut) Config.cfg.maxOut ∧
    t.status = s.status ||| 0x01#8 ∧
    t.sel.rdiv = (rdivSelect Config.cfg t.sel.fout.toNat).rdiv ∧
    t.sel.fwork.toNat = (rdivSelect Config.cfg t.sel.fout.toNat).work ∧
    t.sel.fpll.toNat = (pllSelect Config.cfg t.sel.fout.toNat).pll ∧
    t.sel.d4 = (pllSelect Config.cfg t.sel.fout.toNat).d4

/-- 41_selector.md R143 and R144: the R-divider code and the working frequency, f × 2^code, with no wrap. -/
def Obligations.SelectChoosesRDivider : Prop :=
  ∀ s : State, ∃ t, exec .select s = .next t ∧
    (if 200000 ≤ t.sel.fout.toNat ∧ t.sel.fout.toNat < 1000000 then
      t.sel.rdiv = 0b010#3 ∧ t.sel.fwork.toNat = 4 * t.sel.fout.toNat
    else if 50000 ≤ t.sel.fout.toNat ∧ t.sel.fout.toNat < 200000 then
      t.sel.rdiv = 0b100#3 ∧ t.sel.fwork.toNat = 16 * t.sel.fout.toNat
    else if Config.cfg.minOut ≤ t.sel.fout.toNat ∧ t.sel.fout.toNat < 50000 then
      t.sel.rdiv = 0b111#3 ∧ t.sel.fwork.toNat = 128 * t.sel.fout.toNat
    else t.sel.rdiv = 0b000#3 ∧ t.sel.fwork.toNat = t.sel.fout.toNat) ∧
    t.sel.fwork.toNat = t.sel.fout.toNat * 2 ^ t.sel.rdiv.toNat

/-- 41_selector.md R146: the PLL frequency and the divide-by-4 flag, with no wrap, and the PLL value in its range. -/
def Obligations.SelectChoosesPll : Prop :=
  ∀ s : State, ∃ t, exec .select s = .next t ∧
    (if Config.cfg.b8Lo ≤ t.sel.fout.toNat ∧ t.sel.fout.toNat < Config.cfg.b8Hi then
      t.sel.fpll.toNat = 8 * t.sel.fout.toNat ∧ t.sel.d4 = false
    else if Config.cfg.b6Lo ≤ t.sel.fout.toNat ∧ t.sel.fout.toNat < Config.cfg.b6Hi then
      t.sel.fpll.toNat = 6 * t.sel.fout.toNat ∧ t.sel.d4 = false
    else if Config.cfg.b4Lo ≤ t.sel.fout.toNat ∧ t.sel.fout.toNat < Config.cfg.b4Hi then
      t.sel.fpll.toNat = 4 * t.sel.fout.toNat ∧ t.sel.d4 = true
    else if t.sel.fout.toNat < 8000 then t.sel.fpll.toNat = Config.cfg.pllMin ∧ t.sel.d4 = false
    else t.sel.fpll.toNat = Config.cfg.pllMax ∧ t.sel.d4 = false) ∧
    Config.cfg.pllMin ≤ t.sel.fpll.toNat ∧ t.sel.fpll.toNat ≤ Config.cfg.pllMax

/-- 41_selector.md R147: DividerMode is Integer exactly when the working frequency is at or above the threshold. -/
def Obligations.SelectChoosesDividerMode : Prop :=
  ∀ s : State, ∃ t, exec .select s = .next t ∧
    (t.sel.int = true ↔ t.sel.fwork.toNat ≥ Config.cfg.divBy4Thr)

/-- The frame of `SELECT` (41_selector.md Part 2): the latches, `SELV` and the index, and nothing else; the image survives. -/
def Obligations.SelectFrame : Prop :=
  ∀ s t : State, exec .select s = .next t →
    t = { s with sel := t.sel, status := s.status ||| 0x01#8, index := s.index + 1 }

/-- 41_selector.md R140: the latches depend on `FREQ_IN` (and the configuration) alone. -/
def Obligations.SelectDependsOnFreqAlone : Prop :=
  ∀ s s' : State, s.ports.freqIn = s'.ports.freqIn →
    ∃ t t', exec .select s = .next t ∧ exec .select s' = .next t' ∧ t.sel = t'.sel

/-- The clamp law (41_selector.md Part 1, R149), under every well-formed configuration. -/
def Obligations.ClampLaw : Prop :=
  ∀ c : Cfg, c.WF → ∀ (s : State) (f : Freq),
    (f.toNat < c.minOut →
      (selectWith c (driveFreq f s)).sel = (selectWith c (driveFreq (BitVec.ofNat 32 c.minOut) s)).sel ∧
      (selectWith c (driveFreq f s)).sel.fout.toNat = c.minOut) ∧
    (c.maxOut < f.toNat →
      (selectWith c (driveFreq f s)).sel = (selectWith c (driveFreq (BitVec.ofNat 32 c.maxOut) s)).sel ∧
      (selectWith c (driveFreq f s)).sel.fout.toNat = c.maxOut)

/-- The R-divider bands partition the clamped range (41_selector.md Part 1, R145), and no working frequency wraps. -/
def Obligations.RDividerBandsPartition : Prop :=
  ∀ c : Cfg, c.WF → ∀ f : Nat, c.minOut ≤ f → f ≤ c.maxOut →
    (rdivSelect c f = ⟨2, 4 * f⟩ ↔ 200000 ≤ f ∧ f < 1000000) ∧
    (rdivSelect c f = ⟨4, 16 * f⟩ ↔ 50000 ≤ f ∧ f < 200000) ∧
    (rdivSelect c f = ⟨7, 128 * f⟩ ↔ f < 50000) ∧
    (rdivSelect c f = ⟨0, f⟩ ↔ 1000000 ≤ f) ∧
    (rdivSelect c f).work < 2 ^ 32

/-- The PLL bands (41_selector.md Part 1, R148): no frequency lies in two of them, so each band alone decides, whatever the
priority order. -/
def Obligations.PllBandsDecideAlone : Prop :=
  ∀ c : Cfg, c.WF → ∀ f : Nat,
    (c.b8Lo ≤ f ∧ f < c.b8Hi → pllSelect c f = ⟨8 * f, false⟩) ∧
    (c.b6Lo ≤ f ∧ f < c.b6Hi → pllSelect c f = ⟨6 * f, false⟩) ∧
    (c.b4Lo ≤ f ∧ f < c.b4Hi → pllSelect c f = ⟨4 * f, true⟩) ∧
    (f < 8000 → pllSelect c f = ⟨c.pllMin, false⟩) ∧
    (¬ (c.b8Lo ≤ f ∧ f < c.b8Hi) ∧ ¬ (c.b6Lo ≤ f ∧ f < c.b6Hi) ∧ ¬ (c.b4Lo ≤ f ∧ f < c.b4Hi) ∧ 8000 ≤ f →
      pllSelect c f = ⟨c.pllMax, false⟩)

/-- The output frequency of a `SELECT` result with the exact MultiSynth ratio is the clamped frequency (41_selector.md
Part 2, R151). -/
def Obligations.PlanReachesOutputFrequency : Prop :=
  ∀ c : Cfg, c.WF → 0 < c.pllMin → ∀ s : State,
    ((selectWith c s).sel.fpll.toNat : ℚ) /
        (((selectWith c s).sel.fpll.toNat : ℚ) / ((selectWith c s).sel.fwork.toNat : ℚ)) /
        2 ^ (selectWith c s).sel.rdiv.toNat =
      ((selectWith c s).sel.fout.toNat : ℚ)

/-! ### The encoder's arithmetic and the image -/

/-- The operand contract is a range, and within it the fields fit (40_encoder.md Part 1, R104). -/
def Obligations.RatioContractIsRange : Prop :=
  (∀ r : Ratio, ratioOK r = true ↔ RatioInRange r) ∧
  ∀ r : Ratio, RatioInRange r → r.c < 2 ^ 20 →
    ratioTemp r ≤ 127 ∧ ratioP2 r = ((128 * r.b % r.c : Nat) : Int) ∧ ratioP2 r < r.c ∧
    ((fractionalFields r).p1.toNat : Int) = ratioP1 r ∧ ((fractionalFields r).p2.toNat : Int) = ratioP2 r ∧
    (fractionalFields r).p3.toNat = r.c

/-- 30_encoding.md R81: every byte of `pack` in plain arithmetic, and the PLL form. -/
def Obligations.ImageLayout : Prop :=
  (∀ (f : Fields) (rdiv : RDivCode) (dv4 : BitVec 2),
    pack f rdiv dv4 = layout f.p1.toNat f.p2.toNat f.p3.toNat (16 * rdiv.toNat + 4 * dv4.toNat)) ∧
  ∀ f : Fields, packPll f = layout f.p1.toNat f.p2.toNat f.p3.toNat 0

/-- 30_encoding.md R79: the two forms differ in byte 2 bits 6:2 only, and these are zero in the PLL form. -/
def Obligations.FormsDifferInModeBitsOnly : Prop :=
  ∀ (f : Fields) (rdiv : RDivCode) (dv4 : BitVec 2),
    packPll f = { pack f rdiv dv4 with b2 := (packPll f).b2 } ∧
    (packPll f).b2 = (pack f rdiv dv4).b2 &&& 0x83#8 ∧ (packPll f).b2 &&& 0x7C#8 = 0#8

/-- 30_encoding.md R83: byte 2 bit 7 is 0 in both forms. -/
def Obligations.Byte2Bit7IsZero : Prop :=
  ∀ (f : Fields) (rdiv : RDivCode) (dv4 : BitVec 2),
    (pack f rdiv dv4).b2.getLsbD 7 = false ∧ (packPll f).b2.getLsbD 7 = false

/-- 40_encoder.md R106: the divide-by-4 operand becomes both bits of its field, and the R-divider operand is packed
unchanged, in every image a MultiSynth encode writes; the PLL form has zeros. -/
def Obligations.ModeOperandsArePacked : Prop :=
  (∀ (int d4 : Bool) (rdiv : RDivCode) (s : State), int = true ∨ RatioInRange (ratioOperands s) →
    ∃ t, exec (.encms int d4 rdiv) s = .next t ∧
      (unpack t.img).dv4 = (if d4 = true then 0b11#2 else 0b00#2) ∧ (unpack t.img).rdiv = rdiv) ∧
  ∀ s : State, RatioInRange (ratioOperands s) →
    ∃ t, exec .encpll s = .next t ∧ (unpack t.img).dv4 = 0b00#2 ∧ (unpack t.img).rdiv = 0b000#3

/-- The fields represent the ratio (40_encoder.md Part 2, R108 (d)): (P1 + 512 + P2 / P3) / 128 = a + b/c. -/
def Obligations.FieldsRepresentRatio : Prop :=
  ∀ r : Ratio, RatioInRange r → r.c < 2 ^ 20 →
    (((fractionalFields r).p1.toNat : ℚ) + 512 +
        ((fractionalFields r).p2.toNat : ℚ) / ((fractionalFields r).p3.toNat : ℚ)) / 128 =
      (r.a : ℚ) + (r.b : ℚ) / (r.c : ℚ)

/-! ### ENCPLL -/

/-- 40_encoder.md R110: `ENCPLL`, its word, its image and its error. -/
def Obligations.EncpllEncodesOrRaises : Prop :=
  encode .encpll = 0x02#8 ∧
  (∀ w : Byte, w.toNat % 4 = 2 → w ≠ 0x02#8 → (decode w).toOption = none) ∧
  ∀ s : State,
    (RatioInRange (ratioOperands s) →
      exec .encpll s = .next { s with
        img := fractionalLayout (ratioOperands s) 0
        status := (s.status ||| 0x02#8) &&& 0xFB#8
        index := s.index + 1 }) ∧
    (¬ RatioInRange (ratioOperands s) →
      exec .encpll s = .next { s with status := s.status ||| 0x20#8, index := s.index + 1 })

/-- `ENCPLL` does not read the selector latches (40_encoder.md Part 3). -/
def Obligations.EncpllIgnoresLatches : Prop :=
  ∀ (s t : State) (p : SelLatches), exec .encpll s = .next t →
    exec .encpll { s with sel := p } = .next { t with sel := p }

/-- The round trip of the PLL form (40_encoder.md Part 2, R108 (a) and (b)): the reference decoder recovers the ratio
exactly from the image `ENCPLL` writes. -/
def Obligations.PllImageRoundTrip : Prop :=
  ∀ s : State, RatioInRange (ratioOperands s) →
    ∃ t, exec .encpll s = .next t ∧ decodeRatio (unpack t.img).fields = ratioOperands s ∧
      (unpack t.img).rdiv = 0 ∧ (unpack t.img).dv4 = 0

/-! ### ENCMS -/

/-- 40_encoder.md R103: the integer override, whatever the ratio; its fields decode to the ratio 4. -/
def Obligations.IntegerOverride : Prop :=
  ∀ (d4 : Bool) (rdiv : RDivCode) (s : State), ∃ t, exec (.encms true d4 rdiv) s = .next t ∧
    t = { s with img := layout 0 0 1 (modeBits d4 rdiv), status := s.status ||| 0x06#8, index := s.index + 1 } ∧
    decodeRatio (unpack t.img).fields = ⟨4, 0, 1⟩

/-- 40_encoder.md R120: `ENCMS`, its words, its image on each path and its error. -/
def Obligations.EncmsEncodesOrRaises : Prop :=
  (∀ (int d4 : Bool) (rdiv : RDivCode),
    encode (.encms int d4 rdiv) = BitVec.ofNat 8 (16 * rdiv.toNat + (if d4 then 8 else 0) + (if int then 4 else 0) + 3)) ∧
  ∀ (int d4 : Bool) (rdiv : RDivCode) (s : State),
    exec (.encms int d4 rdiv) s = .next (
      if int = true then
        { s with img := layout 0 0 1 (modeBits d4 rdiv), status := s.status ||| 0x06#8, index := s.index + 1 }
      else if RatioInRange (ratioOperands s) then
        { s with
          img := fractionalLayout (ratioOperands s) (modeBits d4 rdiv)
          status := s.status ||| 0x06#8
          index := s.index + 1 }
      else { s with status := s.status ||| 0x20#8, index := s.index + 1 })

/-- `ENCMS` does not read the selector latches (40_encoder.md Part 3). -/
def Obligations.EncmsIgnoresLatches : Prop :=
  ∀ (int d4 : Bool) (rdiv : RDivCode) (s t : State) (p : SelLatches), exec (.encms int d4 rdiv) s = .next t →
    exec (.encms int d4 rdiv) { s with sel := p } = .next { t with sel := p }

/-- In Integer mode a, b and c are neither used nor checked (40_encoder.md Part 1). -/
def Obligations.IntegerModeIgnoresRatio : Prop :=
  ∀ (d4 : Bool) (rdiv : RDivCode) (s t : State) (a : BitVec 32) (b c : BitVec 20),
    exec (.encms true d4 rdiv) s = .next t →
    exec (.encms true d4 rdiv) (driveRatio a b c s) = .next (driveRatio a b c t)

/-- The round trip of the MultiSynth form (40_encoder.md Part 2, R108 (a) and (b)). -/
def Obligations.MultiSynthImageRoundTrip : Prop :=
  ∀ (d4 : Bool) (rdiv : RDivCode) (s : State), RatioInRange (ratioOperands s) →
    ∃ t, exec (.encms false d4 rdiv) s = .next t ∧ decodeRatio (unpack t.img).fields = ratioOperands s ∧
      (unpack t.img).rdiv = rdiv ∧ (unpack t.img).dv4 = (if d4 then 0b11#2 else 0b00#2)

/-! ### ENCMS.S -/

/-- 60_exceptions.md R185: `ENCMS.S` with `SELV` = 0 raises `E_NOSEL`. -/
def Obligations.EncmsSNeedsSelect : Prop :=
  ∀ s : State, s.status.getLsbD 0 = false →
    exec .encmsS s = .next { s with status := s.status ||| 0x40#8, index := s.index + 1 }

/-- 40_encoder.md R122: with `SELV` = 1, `ENCMS.S` is `ENCMS` with the latched mode fields; with `SELV` = 0 it raises
`E_NOSEL`; its word is 0x83. -/
def Obligations.EncmsSIsEncmsOnLatches : Prop :=
  encode .encmsS = 0x83#8 ∧
  (∀ s : State, s.status.getLsbD 0 = true →
    exec .encmsS s = exec (.encms s.sel.int s.sel.d4 s.sel.rdiv) s) ∧
  ∀ s : State, s.status.getLsbD 0 = false →
    exec .encmsS s = .next { s with status := s.status ||| 0x40#8, index := s.index + 1 }

/-- `ENCMS.S` completes when the latches hold a plan and either DividerMode is Integer or the ratio is in range
(40_encoder.md Part 3): the image has the latched mode fields, the latches are read and not changed. -/
def Obligations.EncmsSCompletes : Prop :=
  ∀ s : State, s.status.getLsbD 0 = true → s.sel.int = true ∨ RatioInRange (ratioOperands s) →
    exec .encmsS s = .next { s with
      img := if s.sel.int = true then layout 0 0 1 (modeBits s.sel.d4 s.sel.rdiv)
        else fractionalLayout (ratioOperands s) (modeBits s.sel.d4 s.sel.rdiv)
      status := s.status ||| 0x06#8
      index := s.index + 1 }

/-- `ENCMS.S` uses the latches of the most recent `SELECT` (70_reset_and_hazards.md section 3, R232). -/
def Obligations.EncmsSUsesLatestSelect : Prop :=
  ∀ (s : State) (a : BitVec 32) (b c : BitVec 20), RatioInRange ⟨a.toNat, b.toNat, c.toNat⟩ →
    ∃ t u, exec .select s = .next t ∧ exec .encmsS (driveRatio a b c t) = .next u ∧
      u.sel = t.sel ∧ (unpack u.img).rdiv = t.sel.rdiv ∧
      (unpack u.img).dv4 = (if t.sel.d4 then 0b11#2 else 0b00#2) ∧
      decodeRatio (unpack u.img).fields = (if t.sel.int then ⟨4, 0, 1⟩ else ⟨a.toNat, b.toNat, c.toNat⟩)

/-! ### Errors -/

/-- 60_exceptions.md R184: on each command that takes the fractional path exactly these operands raise `E_RNG`; with others the
command completes and leaves `E_RNG` as it was, and so does every command that does not take the fractional path. -/
def Obligations.OutOfRangeRatioRaisesRng : Prop :=
  (∀ (s : State) (i : Instr), takesFractionalPath i s = true → (i = .encmsS → s.status.getLsbD 0 = true) →
    ((ratioOperands s).c = 0 ∨ (ratioOperands s).b ≥ (ratioOperands s).c ∨ (ratioOperands s).a ≤ 3 ∨
        (ratioOperands s).a ≥ 2052 →
      exec i s = .next { s with status := s.status ||| 0x20#8, index := s.index + 1 }) ∧
    (¬ ((ratioOperands s).c = 0 ∨ (ratioOperands s).b ≥ (ratioOperands s).c ∨ (ratioOperands s).a ≤ 3 ∨
        (ratioOperands s).a ≥ 2052) →
      ∃ t, exec i s = .next t ∧ t.status.getLsbD 5 = s.status.getLsbD 5)) ∧
  ∀ (s : State) (i : Instr), takesFractionalPath i s = false ∨ (i = .encmsS ∧ s.status.getLsbD 0 = false) →
    ∃ t, exec i s = .next t ∧ t.status.getLsbD 5 = s.status.getLsbD 5

/-- 60_exceptions.md R187 and R182: the order of the checks decides which error a command raises; the error is recorded and
nothing else happens. A command that raises none leaves every error bit as it was. -/
def Obligations.ErrorsByPriority : Prop :=
  ∀ s : State, s.ports.rst = false →
    (∀ code, commandError s = some code → step s = .next (recorded code s)) ∧
    (commandError s = none → ∃ t, step s = .next t ∧ t.status &&& 0xF8#8 = s.status &&& 0xF8#8)

/-- 10_state.md R26: a set error bit stays set through every command, and recording one leaves the others. -/
def Obligations.ErrorBitsAreSticky : Prop :=
  (∀ (s t : State) (e : ErrorCode), s.ports.rst = false → step s = .next t →
    statusError e s.status = true → statusError e t.status = true) ∧
  ∀ (s : State) (e e' : ErrorCode), e' ≠ e → statusError e' (raiseError e s).status = statusError e' s.status

/-- A command raises at most one error (60_exceptions.md section 2). -/
def Obligations.AtMostOneNewError : Prop :=
  ∀ (s t : State) (e e' : ErrorCode), s.ports.rst = false → step s = .next t →
    statusError e s.status = false → statusError e t.status = true →
    statusError e' s.status = false → statusError e' t.status = true → e = e'

/-- The host's check against a stale image (70_reset_and_hazards.md section 3, R233): when an encode command leaves `E_RNG` and
`E_NOSEL` at 0, the image in `IMG` is the one of this command, in every byte: its ratio, its mode fields and its kind. -/
def Obligations.CleanStatusMeansFreshImage : Prop :=
  ∀ (i : Instr) (s t : State), i ≠ .nop → i ≠ .select → exec i s = .next t →
    statusError .rng t.status = false → statusError .nosel t.status = false →
    t.img = encodedImage i s ∧ t.status.getLsbD 1 = true ∧ (t.status.getLsbD 2 = false ↔ i = .encpll) ∧
    decodeRatio (unpack t.img).fields = (if takesFractionalPath i s = true then ratioOperands s else ⟨4, 0, 1⟩) ∧
    16 * (unpack t.img).rdiv.toNat + 4 * (unpack t.img).dv4.toNat = packedModeBits i s

/-! ### What a command can change -/

/-- 70_reset_and_hazards.md R241: every command completes in one step, for all words and all port values. -/
def Obligations.EveryStepCompletes : Prop :=
  ∀ s : State, ∃ t, step s = .next t

/-- 10_state.md R29: every command advances the index by exactly 1, legal or not, and the block never writes the ports
(section 2). -/
def Obligations.CommandAdvancesIndex : Prop :=
  ∀ s t : State, s.ports.rst = false → step s = .next t → t.index = s.index + 1 ∧ t.ports = s.ports

/-- No command but `SELECT` writes the selector latches (10_state.md section 3). -/
def Obligations.OnlySelectWritesLatches : Prop :=
  ∀ (i : Instr) (s t : State), exec i s = .next t → i ≠ .select → t.sel = s.sel

/-- `IMG` is written by the encode commands alone, and then whole with `IMGV` = 1 and its kind; `SELECT` and `NOP` do not
disturb it (10_state.md section 4, 20_memory.md section 2). -/
def Obligations.OnlyEncodesWriteImage : Prop :=
  ∀ (i : Instr) (s t : State), exec i s = .next t →
    (t.img = s.img ∧ t.status &&& 0x06#8 = s.status &&& 0x06#8) ∨
    (i ≠ .nop ∧ i ≠ .select ∧ t.status.getLsbD 1 = true ∧
      (t.status.getLsbD 2 = false ↔ i = .encpll) ∧ t.status &&& 0xF8#8 = s.status &&& 0xF8#8)

/-- The frame of the encode commands: nothing but `IMG`, the index and `STATUS` bits IMGV, IMGK, E_RNG and E_NOSEL
(40_encoder.md Part 3). -/
def Obligations.EncodeFrame : Prop :=
  ∀ (i : Instr) (s t : State), i ≠ .nop → i ≠ .select → exec i s = .next t →
    t = { s with img := t.img, status := t.status, index := s.index + 1 } ∧
    t.status &&& 0x99#8 = s.status &&& 0x99#8

/-- `SELV` and `IMGV` are cleared by reset only (10_state.md section 5). -/
def Obligations.ValidBitsStay : Prop :=
  ∀ s t : State, s.ports.rst = false → step s = .next t →
    (s.status.getLsbD 0 = true → t.status.getLsbD 0 = true) ∧
    (s.status.getLsbD 1 = true → t.status.getLsbD 1 = true)

/-! ### Reset and host reads -/

/-- 10_state.md R31: the state after reset, as far as the spec gives it. -/
def Obligations.ResetStatusIsZero : Prop :=
  State.reset.status = 0x00#8 ∧ statusSelv State.reset.status = false ∧ statusImgv State.reset.status = false ∧
  statusImgk State.reset.status = false ∧ ∀ e, statusError e State.reset.status = false

/-- The reset event (70_reset_and_hazards.md section 1, R220): `STATUS` is 0, the ports are kept, and a second assertion
changes nothing but the model's own count of reset events. That a step with `RST` asserted is the reset event and runs no command,
whatever word is on `CMD`, the second time too, is assumption log entry 6; entries 4 and 7 are for the count and the index. -/
def Obligations.ResetEventClears : Prop :=
  ∀ s : State, s.ports.rst = true → ∃ t, step s = .next t ∧
    t.status = 0x00#8 ∧ t.ports = s.ports ∧ t.index = s.index ∧
    step t = .next { t with resets := t.resets + 1 }

/-- While a latch or the image is unwritten, a host read does not depend on what the model stores there
(93_implementation_defined.md I6; assumption log entry 4). -/
def Obligations.UnwrittenReadsIgnoreStorage : Prop :=
  (∀ (s : State) (p : SelLatches), s.status.getLsbD 0 = false →
    readFout { s with sel := p } = readFout s ∧ readFpll { s with sel := p } = readFpll s ∧
    readFwork { s with sel := p } = readFwork s ∧ readRdiv { s with sel := p } = readRdiv s ∧
    readD4 { s with sel := p } = readD4 s ∧ readInt { s with sel := p } = readInt s) ∧
  ∀ (s : State) (im : Image) (k : BitVec 3), s.status.getLsbD 1 = false →
    readImg k { s with img := im } = readImg k s

/-- A host read returns what the most recent command that wrote it wrote (20_memory.md section 4, R56): the latches after
`SELECT`; each byte of `IMG` after `ENCPLL`, `ENCMS` and `ENCMS.S`; `STATUS` after each of them and after an error; and a command
that does not write a latch or the image leaves what is read from it. -/
def Obligations.ReadsReturnLatestWrite : Prop :=
  (∀ s : State, ∃ t, exec .select s = .next t ∧ ReadsPlan t (plan Config.cfg s.ports.freqIn.toNat) ∧
    readStatus t = s.status ||| 0x01#8) ∧
  (∀ s : State, RatioInRange (ratioOperands s) → ∃ t, exec .encpll s = .next t ∧
    ReadsImage t (fractionalLayout (ratioOperands s) 0) ∧ readStatus t = (s.status ||| 0x02#8) &&& 0xFB#8) ∧
  (∀ (int d4 : Bool) (rdiv : RDivCode) (s : State), int = true ∨ RatioInRange (ratioOperands s) →
    ∃ t, exec (.encms int d4 rdiv) s = .next t ∧
      ReadsImage t (if int = true then layout 0 0 1 (modeBits d4 rdiv)
        else fractionalLayout (ratioOperands s) (modeBits d4 rdiv)) ∧
      readStatus t = s.status ||| 0x06#8) ∧
  (∀ s : State, s.status.getLsbD 0 = true → s.sel.int = true ∨ RatioInRange (ratioOperands s) →
    ∃ t, exec .encmsS s = .next t ∧
      ReadsImage t (if s.sel.int = true then layout 0 0 1 (modeBits s.sel.d4 s.sel.rdiv)
        else fractionalLayout (ratioOperands s) (modeBits s.sel.d4 s.sel.rdiv)) ∧
      readStatus t = s.status ||| 0x06#8) ∧
  (∀ (s : State) (code : Nat), s.ports.rst = false → commandError s = some code →
    ∃ t, step s = .next t ∧ readStatus t = s.status ||| BitVec.ofNat 8 (2 ^ code) ∧
      (∀ im, s.status.getLsbD 1 = true → ReadsImage s im → ReadsImage t im)) ∧
  (∀ s : State, ∃ t, exec .nop s = .next t ∧ readStatus t = s.status) ∧
  (∀ (s t : State) (p : SelLatches), s.ports.rst = false → decode s.ports.cmd ≠ .instr .select → step s = .next t →
    s.status.getLsbD 0 = true → ReadsPlan s p → ReadsPlan t p) ∧
  ∀ (i : Instr) (s t : State) (im : Image), i = .nop ∨ i = .select → exec i s = .next t →
    s.status.getLsbD 1 = true → ReadsImage s im → ReadsImage t im

/-! ### Invariants -/

/-- The invariant holds after reset (its clause on `IMGK`: log entry 19). -/
def Obligations.InvariantAtReset : Prop := StateInv State.reset

/-- Every step, a command or the reset event, from every state that meets the invariant, keeps it (10_state.md sections 3 to 5:
the legal values of the latches, the image and the status register). The invariant's last clause, that `IMGK` is 0 while `IMGV` is
0, follows R25's table and not its sentence "Any combination of the other six bits can occur" (log entry 19). -/
def Obligations.StepKeepsInvariant : Prop :=
  ∀ s t : State, StateInv s → step s = .next t → StateInv t

/-- Every run of host acts, from every state that meets the invariant, completes and keeps it (60_exceptions.md section 5; the
invariant's clause on `IMGK`: log entry 19). -/
def Obligations.HostRunKeepsInvariant : Prop :=
  ∀ (acts : List HostAct) (s : State), StateInv s → ∃ t, hostRun acts s = .next t ∧ StateInv t

/-! ### The host's protocol -/

/-- `setFrequency` (60_exceptions.md section 5, R200) with a crystal, the PLL ratio in range and, unless the plan is Integer, the
MultiSynth ratio too: the chip gets the PLL image, then the PLL reset, then the MultiSynth image, then the control byte and the
enable. The images are those of the two ratios (the override's in Integer mode) with the plan's mode fields; the first decodes to
the PLL ratio, the second to the MultiSynth ratio (to 4 + 0/1 in Integer mode); no error bit changes. The model's choices: the approximator is any function and `IMG[k]` goes to register base + k
with no wrap at 256 (log entry 13); whether the control byte names the crystal bypass is an argument, either value (log entry
20). -/
def Obligations.SetFrequencyProgramsChip : Prop :=
  ∀ (approx : Approximator) (xtal maxden : Nat) (bypass : Bool) (ch : Channel) (pll : PllName) (f : Freq) (s : State),
    xtal ≠ 0 →
    RatioInRange
      ⟨(approx (plan Config.cfg f.toNat).fpll.toNat xtal maxden).a.toNat,
       (approx (plan Config.cfg f.toNat).fpll.toNat xtal maxden).b.toNat,
       (approx (plan Config.cfg f.toNat).fpll.toNat xtal maxden).c.toNat⟩ →
    ((plan Config.cfg f.toNat).int = false → RatioInRange
      ⟨(approx (plan Config.cfg f.toNat).fpll.toNat (plan Config.cfg f.toNat).fwork.toNat maxden).a.toNat,
       (approx (plan Config.cfg f.toNat).fpll.toNat (plan Config.cfg f.toNat).fwork.toNat maxden).b.toNat,
       (approx (plan Config.cfg f.toNat).fpll.toNat (plan Config.cfg f.toNat).fwork.toNat maxden).c.toNat⟩) →
    ∃ (t : State) (im1 im2 : Image),
      setFrequency approx xtal maxden bypass ch pll f s = .next
        { block := t
          chip :=
            ((List.range 8).map fun k =>
              ChipEvent.writeRegister ((pllBase pll).toNat + k) (im1.byte (BitVec.ofNat 3 k))) ++
            [.resetPlls] ++
            ((List.range 8).map fun k =>
              ChipEvent.writeRegister ((msBase ch).toNat + k) (im2.byte (BitVec.ofNat 3 k))) ++
            [.writeControl ch (if bypass = true then .crystalBypass else .pll pll) (plan Config.cfg f.toNat).int,
             .enableOutput ch] } ∧
      decodeRatio (unpack im1).fields =
        ⟨(approx (plan Config.cfg f.toNat).fpll.toNat xtal maxden).a.toNat,
         (approx (plan Config.cfg f.toNat).fpll.toNat xtal maxden).b.toNat,
         (approx (plan Config.cfg f.toNat).fpll.toNat xtal maxden).c.toNat⟩ ∧
      (unpack im1).rdiv = 0 ∧ (unpack im1).dv4 = 0 ∧
      im1 = fractionalLayout
        ⟨(approx (plan Config.cfg f.toNat).fpll.toNat xtal maxden).a.toNat,
         (approx (plan Config.cfg f.toNat).fpll.toNat xtal maxden).b.toNat,
         (approx (plan Config.cfg f.toNat).fpll.toNat xtal maxden).c.toNat⟩ 0 ∧
      im2 = (if (plan Config.cfg f.toNat).int = true then layout 0 0 1 (modeBits (plan Config.cfg f.toNat).d4 (plan Config.cfg f.toNat).rdiv)
        else fractionalLayout
          ⟨(approx (plan Config.cfg f.toNat).fpll.toNat (plan Config.cfg f.toNat).fwork.toNat maxden).a.toNat,
           (approx (plan Config.cfg f.toNat).fpll.toNat (plan Config.cfg f.toNat).fwork.toNat maxden).b.toNat,
           (approx (plan Config.cfg f.toNat).fpll.toNat (plan Config.cfg f.toNat).fwork.toNat maxden).c.toNat⟩
          (modeBits (plan Config.cfg f.toNat).d4 (plan Config.cfg f.toNat).rdiv)) ∧
      decodeRatio (unpack im2).fields = (if (plan Config.cfg f.toNat).int = true then ⟨4, 0, 1⟩ else
        ⟨(approx (plan Config.cfg f.toNat).fpll.toNat (plan Config.cfg f.toNat).fwork.toNat maxden).a.toNat,
         (approx (plan Config.cfg f.toNat).fpll.toNat (plan Config.cfg f.toNat).fwork.toNat maxden).b.toNat,
         (approx (plan Config.cfg f.toNat).fpll.toNat (plan Config.cfg f.toNat).fwork.toNat maxden).c.toNat⟩) ∧
      (unpack im2).rdiv = (plan Config.cfg f.toNat).rdiv ∧
      (unpack im2).dv4 = divBy4Field (plan Config.cfg f.toNat).d4 ∧
      t.sel = (plan Config.cfg f.toNat) ∧ t.img = im2 ∧ t.status &&& 0xF8#8 = s.status &&& 0xF8#8

/-- `setFrequency` with a zero crystal frequency is silently skipped after the `SELECT` (60_exceptions.md section 5, R200
step 2): the chip is not touched. -/
def Obligations.SetFrequencyWithoutCrystal : Prop :=
  ∀ (approx : Approximator) (maxden : Nat) (bypass : Bool) (ch : Channel) (pll : PllName) (f : Freq) (s : State),
    ∃ t, setFrequency approx 0 maxden bypass ch pll f s = .next { block := t, chip := [] } ∧
      t.sel = plan Config.cfg f.toNat ∧ t.img = s.img
end

