-- ==== Sys2Proof/Machine/Approximator.lean ====
section
/-! DEFINITION. The contracts of the surrounding system that 00_scope.md rules R12, R14 and R15 record: the RatioApproximator, the
effective crystal frequency and the bound on MAXDEN. They are outside the block (R4); the protocol `setFrequency` takes any
approximator, and `approximate` is the one R14 describes. -/

namespace Sys2Proof.Machine

/-- A non-negative fraction, not reduced; `den` is not 0 where it is used. -/
structure Frac where
  num : Nat
  den : Nat
  deriving DecidableEq, Repr

/-- The quotient of a fraction scaled to 53 bits, and the power of two it was multiplied by, as a fraction num / den. -/
structure Scaled where
  num : Nat
  den : Nat
  scale : Frac
  deriving DecidableEq, Repr

/-- A positive fraction times the power of two that brings it into [2^51, 2^53). -/
def roughScale (x : Frac) : Scaled :=
  if x.num.log2 ≤ 52 + x.den.log2 then
    ⟨x.num * 2 ^ (52 + x.den.log2 - x.num.log2), x.den, ⟨2 ^ (52 + x.den.log2 - x.num.log2), 1⟩⟩
  else ⟨x.num, x.den * 2 ^ (x.num.log2 - (52 + x.den.log2)), ⟨1, 2 ^ (x.num.log2 - (52 + x.den.log2))⟩⟩

/-- The same, brought into [2^52, 2^53). -/
def fineScale (s : Scaled) : Scaled :=
  if s.num / s.den < 2 ^ 52 then ⟨2 * s.num, s.den, ⟨2 * s.scale.num, s.scale.den⟩⟩ else s

/-- The integer nearest num / den, a tie going to the even one. -/
def roundHalfEven (num den : Nat) : Nat :=
  if 2 * (num % den) > den ∨ (2 * (num % den) = den ∧ num / den % 2 = 1) then num / den + 1 else num / den

/-- `fl64` (R14): a fraction as IEEE 754 binary64 with round-to-nearest-even (PRESUMED, as the spec says of its own reading; log
entry 17). The operands of R14 stay far from overflow and from subnormal numbers. -/
def fl64 (x : Frac) : Frac :=
  if x.num = 0 then ⟨0, 1⟩
  else
    let s := fineScale (roughScale x)
    ⟨roundHalfEven s.num s.den * s.scale.den, s.scale.num⟩

/-- The numerator b of R14: `floor(frac * maxDenominator)` with `frac = fl64(fl64(n) / fl64(d)) - fl64(n div d)` in binary64. -/
def approximateB (n d maxden : Nat) : Nat :=
  let fn := fl64 ⟨n, 1⟩
  let fd := fl64 ⟨d, 1⟩
  let q := fl64 ⟨fn.num * fd.den, fn.den * fd.num⟩
  let w := fl64 ⟨n / d, 1⟩
  let frac := fl64 ⟨q.num * w.den - w.num * q.den, q.den * w.den⟩
  let m := fl64 ⟨maxden, 1⟩
  let product := fl64 ⟨frac.num * m.num, frac.den * m.den⟩
  product.num / product.den

/-- An integer on a port of `width` bits; one that does not fit has no value there (92_eei_decisions.md D4: "not
representable"), and the word is the free value `openWord` (DESIGN CHOICE: log entry 18). -/
def portWord {width : Nat} (v : Nat) (openWord : BitVec width) : BitVec width :=
  if v < 2 ^ width then BitVec.ofNat width v else openWord

/-- `approximate(numerator, denominator, maxDenominator)` (R14). A zero denominator ("must never be zero; caller guarantees
this") gives free a and b. Any of the three operands above 2^53 gives a free b (93_implementation_defined.md I7: any value; that
this is said of b alone is log entry 17's reading). R14's a, b or c where its port cannot hold it (a from 2^32 on, b or c from
2^20 on) is a free word: R14 gives the integer, D4 calls it not representable, and the spec says no more (DESIGN CHOICE: log
entry 18). -/
def approximate : Approximator := fun n d maxden =>
  { a := if d = 0 then Config.approximateOpenA n d maxden else portWord (n / d) (Config.approximateOpenA n d maxden)
    b := if d = 0 ∨ 2 ^ 53 < n ∨ 2 ^ 53 < d ∨ 2 ^ 53 < maxden then Config.approximateOpenB n d maxden
      else portWord (approximateB n d maxden) (Config.approximateOpenB n d maxden)
    c := portWord maxden (Config.approximateOpenC n d maxden) }

/-- A valid MAXDEN: 1 ≤ MAXDEN ≤ 2^20 − 1 (R15). -/
def validMaxden (maxden : Nat) : Bool := decide (1 ≤ maxden ∧ maxden ≤ 1048575)

/-- The effective crystal frequency, "nominal + nominal × correction / 10,000,000" with the signed correction in parts per ten
million (R12). How the host rounds it to an integer is not in the source. -/
def effectiveCrystal (nominal : Nat) (correction : Int) : Rat :=
  (nominal : Rat) + (nominal : Rat) * (correction : Rat) / 10000000

end Sys2Proof.Machine
end

