-- ==== Sys2Proof/Laws/Approximator.lean ====
section
/-! SUPPORT. What the external approximator answers where its ports can hold it (00_scope.md rule R14). -/

namespace Sys2Proof.Machine

/-- An integer that fits its port is on it. -/
theorem portWord_toNat {w v : Nat} (o : BitVec w) (h : v < 2 ^ w) : (portWord v o).toNat = v := by
  rw [portWord, if_pos h, BitVec.toNat_ofNat, Nat.mod_eq_of_lt h]

/-- a is the quotient, where the denominator is not 0 and `A_IN` can hold it. -/
theorem approximate_a (n d maxden : Nat) (hd : d ≠ 0) (h : n / d < 2 ^ 32) : (approximate n d maxden).a.toNat = n / d := by
  simp only [approximate, if_neg hd]
  exact portWord_toNat _ h

/-- c is maxDenominator, where it is valid (R15). -/
theorem approximate_c (n d maxden : Nat) (h : validMaxden maxden = true) : (approximate n d maxden).c.toNat = maxden := by
  have h' : maxden < 2 ^ 20 := by
    have := of_decide_eq_true h
    omega
  exact portWord_toNat _ h'

end Sys2Proof.Machine
end

