-- ==== Sys2Proof/Laws/Encoder.lean ====
section
/-! SUPPORT. The encoder's functions: one lemma each for what they give (40_encoder.md rules R101 to R107, 30_encoding.md R81). -/

namespace Sys2Proof.Machine

/-- `temp` is below 128 whenever b < c. -/
theorem ratioTemp_lt (r : Ratio) (h : r.b < r.c) : ratioTemp r < 128 := by
  unfold ratioTemp
  exact Nat.div_lt_of_lt_mul (by rw [Nat.mul_comm r.c]; exact Nat.mul_lt_mul_of_pos_left h (by decide))

/-- P2 is the remainder of 128 × b by c. -/
theorem ratioP2_eq (r : Ratio) : ratioP2 r = ((128 * r.b % r.c : Nat) : Int) := by
  have h := Nat.div_add_mod (128 * r.b) r.c
  unfold ratioP2 ratioTemp
  have h' : (r.c : Int) * ((128 * r.b / r.c : Nat) : Int) + ((128 * r.b % r.c : Nat) : Int) = 128 * (r.b : Int) := by
    exact_mod_cast h
  omega

/-- What the operand contract says, as a proposition. -/
theorem ratioOK_iff (r : Ratio) :
    ratioOK r = true ↔ 1 ≤ r.c ∧ r.b < r.c ∧ 0 ≤ ratioP1 r ∧ ratioP1 r < 2 ^ 18 := by
  simp [ratioOK, and_assoc]

/-- P1 as a natural number, once 128 × a + temp is at least 512. -/
theorem ratioP1_eq (r : Ratio) (h : 4 ≤ r.a) : ratioP1 r = ((128 * r.a + ratioTemp r - 512 : Nat) : Int) := by
  unfold ratioP1
  omega

/-- `BitVec.ofInt` of a natural number. -/
theorem ofInt_natCast_toNat (w n : Nat) (h : n < 2 ^ w) : (BitVec.ofInt w (n : Int)).toNat = n := by
  rw [BitVec.ofInt_natCast, BitVec.toNat_ofNat, Nat.mod_eq_of_lt h]

/-- `unpack` undoes `pack`, for any fields and mode bits. -/
@[simp] theorem unpack_pack (f : Fields) (rdiv : RDivCode) (dv4 : BitVec 2) : unpack (pack f rdiv dv4) = ⟨f, rdiv, dv4⟩ := by
  obtain ⟨p1, p2, p3⟩ := f
  simp only [unpack, pack, Unpacked.mk.injEq, Fields.mk.injEq]
  refine ⟨⟨?_, ?_, ?_⟩, ?_, ?_⟩ <;> refine BitVec.eq_of_getLsbD_eq fun i hi => ?_
  case refine_1 | refine_2 | refine_3 =>
    rw [BitVec.getLsbD_append, BitVec.getLsbD_append]
    simp only [BitVec.getLsbD_extractLsb', BitVec.getLsbD_append]
    interval_cases i <;> simp
  case refine_4 =>
    rw [BitVec.getLsbD_extractLsb', BitVec.getLsbD_append, BitVec.getLsbD_append, BitVec.getLsbD_append]
    interval_cases i <;> simp
  case refine_5 =>
    rw [BitVec.getLsbD_extractLsb', BitVec.getLsbD_append, BitVec.getLsbD_append]
    interval_cases i <;> simp

/-- Byte 2 bit 7 of a packed image is 0 (R83). -/
@[simp] theorem pack_bit7 (f : Fields) (rdiv : RDivCode) (dv4 : BitVec 2) : (pack f rdiv dv4).b2.getLsbD 7 = false := by
  simp only [pack]
  rw [BitVec.getLsbD_append, BitVec.getLsbD_append, BitVec.getLsbD_append]
  simp

/-- The divide-by-4 field is 00 or 11 (R84). -/
theorem divBy4Field_cases (d4 : Bool) : divBy4Field d4 = 0b00#2 ∨ divBy4Field d4 = 0b11#2 := by
  cases d4 <;> simp [divBy4Field]

/-- Everything a MultiSynth encode can do: it writes the image of the override or of the fractional path, or raises `E_RNG`. -/
theorem encodeMultiSynth_cases (m : ModeFields) (s : State) :
    (m.int = true ∧ encodeMultiSynth m s = writeImage .multiSynth (pack overrideFields m.rdiv (divBy4Field m.d4)) s) ∨
    (m.int = false ∧ ratioOK (ratioOperands s) = true ∧
      encodeMultiSynth m s =
        writeImage .multiSynth (pack (fractionalFields (ratioOperands s)) m.rdiv (divBy4Field m.d4)) s) ∨
    (m.int = false ∧ ratioOK (ratioOperands s) = false ∧ encodeMultiSynth m s = raiseError .rng s) := by
  unfold encodeMultiSynth multiSynthFields
  cases hi : m.int <;> cases hr : ratioOK (ratioOperands s) <;> simp

/-- Everything a PLL encode can do. -/
theorem encodePll_cases (s : State) :
    (ratioOK (ratioOperands s) = true ∧
      encodePll s = writeImage .pll (packPll (fractionalFields (ratioOperands s))) s) ∨
    (ratioOK (ratioOperands s) = false ∧ encodePll s = raiseError .rng s) := by
  unfold encodePll
  cases hr : ratioOK (ratioOperands s) <;> simp

end Sys2Proof.Machine
end

