-- ==== Sys2Proof/Laws/Flags.lean ====
section
/-! SUPPORT. What the three `STATUS` updates do, bit by bit (10_state.md rule R25). -/

namespace Sys2Proof.Machine

/-- Setting bit k sets it and keeps every other bit. -/
theorem setBit_getLsbD (st : Byte) (k j : Nat) (hk : k < 8) :
    (setBit st k).getLsbD j = (decide (j = k) || st.getLsbD j) := by
  unfold setBit oneBit
  by_cases hj : j < 8
  · simp only [BitVec.getLsbD_or, BitVec.getLsbD_shiftLeft, hj, decide_true, Bool.true_and]
    by_cases h : j = k
    · subst h; simp
    · rcases Nat.lt_or_gt_of_ne h with h' | h'
      · simp [h, h']
      · have : j - k ≠ 0 := by omega
        simp [h, this]
  · have h1 : (st ||| 1#8 <<< k).getLsbD j = false := BitVec.getLsbD_of_ge _ _ (by omega)
    have h2 : st.getLsbD j = false := BitVec.getLsbD_of_ge _ _ (by omega)
    have h3 : j ≠ k := by omega
    simp [h1, h2, h3]

/-- Clearing bit k clears it and keeps every other bit. -/
theorem clearBit_getLsbD (st : Byte) (k j : Nat) (hk : k < 8) :
    (clearBit st k).getLsbD j = (!decide (j = k) && st.getLsbD j) := by
  have h0 := setBit_getLsbD 0 k j hk
  have h1 : setBit 0 k = oneBit k := by simp [setBit]
  rw [h1] at h0
  unfold clearBit
  by_cases hj : j < 8
  · have hj' : decide (j < 8) = true := by simpa using hj
    rw [BitVec.getLsbD_and, BitVec.getLsbD_not, h0]
    have hz : (0 : Byte).getLsbD j = false := BitVec.getLsbD_zero
    rw [hz, Bool.or_false, hj', Bool.true_and, Bool.and_comm]
  · have h2 : st.getLsbD j = false := BitVec.getLsbD_of_ge _ _ (by omega)
    rw [BitVec.getLsbD_and, h2]
    simp

/-- After a `SELECT`, `SELV` is 1 and every other bit is kept. -/
theorem statusAfterSelect_getLsbD (st : Byte) (j : Nat) :
    (statusAfterSelect st).getLsbD j = (decide (j = 0) || st.getLsbD j) :=
  setBit_getLsbD st 0 j (by omega)

/-- After error e, its bit is 1 and every other bit is kept. -/
theorem statusAfterError_getLsbD (e : ErrorCode) (st : Byte) (j : Nat) :
    (statusAfterError e st).getLsbD j = (decide (j = e.code) || st.getLsbD j) :=
  setBit_getLsbD st e.code j (by cases e <;> decide)

/-- After an encode, `IMGV` is 1, `IMGK` is the kind, and every other bit is kept. -/
theorem statusAfterEncode_getLsbD (k : ImageKind) (st : Byte) (j : Nat) :
    (statusAfterEncode k st).getLsbD j =
      if j = 1 then true else if j = 2 then k.bit else st.getLsbD j := by
  cases k
  · simp only [statusAfterEncode, clearBit_getLsbD _ 2 j (by omega), setBit_getLsbD _ 1 j (by omega), ImageKind.bit]
    by_cases h1 : j = 1
    · simp [h1]
    · by_cases h2 : j = 2 <;> simp [h1, h2]
  · simp only [statusAfterEncode, setBit_getLsbD _ 2 j (by omega), setBit_getLsbD _ 1 j (by omega), ImageKind.bit]
    by_cases h1 : j = 1
    · simp [h1]
    · by_cases h2 : j = 2 <;> simp [h1, h2]

/-! ### The updates as masks -/

theorem statusAfterSelect_eq (st : Byte) : statusAfterSelect st = st ||| 0x01#8 := rfl

theorem statusAfterEncode_pll_eq (st : Byte) : statusAfterEncode .pll st = (st ||| 0x02#8) &&& 0xFB#8 := rfl

theorem statusAfterEncode_multiSynth_eq (st : Byte) : statusAfterEncode .multiSynth st = st ||| 0x06#8 := by
  have h : statusAfterEncode .multiSynth st = st ||| 0x02#8 ||| 0x04#8 := rfl
  rw [h, BitVec.or_assoc]
  rfl

theorem statusAfterError_eq (e : ErrorCode) (st : Byte) :
    statusAfterError e st = st ||| BitVec.ofNat 8 (2 ^ e.code) := by
  cases e <;> rfl

/-! ### The named bits -/

@[simp] theorem statusSelv_afterSelect (st : Byte) : statusSelv (statusAfterSelect st) = true := by
  simp only [statusSelv, statusAfterSelect_getLsbD]; rfl

@[simp] theorem statusImgv_afterSelect (st : Byte) : statusImgv (statusAfterSelect st) = statusImgv st := by
  simp only [statusImgv, statusAfterSelect_getLsbD]; rfl

@[simp] theorem statusImgk_afterSelect (st : Byte) : statusImgk (statusAfterSelect st) = statusImgk st := by
  simp only [statusImgk, statusAfterSelect_getLsbD]; rfl

@[simp] theorem statusError_afterSelect (e : ErrorCode) (st : Byte) :
    statusError e (statusAfterSelect st) = statusError e st := by
  cases e <;> simp only [statusError, statusAfterSelect_getLsbD, ErrorCode.code] <;> rfl

@[simp] theorem statusSelv_afterEncode (k : ImageKind) (st : Byte) :
    statusSelv (statusAfterEncode k st) = statusSelv st := by
  simp only [statusSelv, statusAfterEncode_getLsbD]; rfl

@[simp] theorem statusImgv_afterEncode (k : ImageKind) (st : Byte) : statusImgv (statusAfterEncode k st) = true := by
  simp only [statusImgv, statusAfterEncode_getLsbD]; rfl

@[simp] theorem statusImgk_afterEncode (k : ImageKind) (st : Byte) : statusImgk (statusAfterEncode k st) = k.bit := by
  simp only [statusImgk, statusAfterEncode_getLsbD]; rfl

@[simp] theorem statusError_afterEncode (e : ErrorCode) (k : ImageKind) (st : Byte) :
    statusError e (statusAfterEncode k st) = statusError e st := by
  cases e <;> simp only [statusError, statusAfterEncode_getLsbD, ErrorCode.code] <;> rfl

@[simp] theorem statusSelv_afterError (e : ErrorCode) (st : Byte) :
    statusSelv (statusAfterError e st) = statusSelv st := by
  cases e <;> simp only [statusSelv, statusAfterError_getLsbD, ErrorCode.code] <;> rfl

@[simp] theorem statusImgv_afterError (e : ErrorCode) (st : Byte) :
    statusImgv (statusAfterError e st) = statusImgv st := by
  cases e <;> simp only [statusImgv, statusAfterError_getLsbD, ErrorCode.code] <;> rfl

@[simp] theorem statusImgk_afterError (e : ErrorCode) (st : Byte) :
    statusImgk (statusAfterError e st) = statusImgk st := by
  cases e <;> simp only [statusImgk, statusAfterError_getLsbD, ErrorCode.code] <;> rfl

/-- Recording e sets e's bit and no other condition's. -/
@[simp] theorem statusError_afterError (e e' : ErrorCode) (st : Byte) :
    statusError e' (statusAfterError e st) = (decide (e' = e) || statusError e' st) := by
  cases e <;> cases e' <;> simp only [statusError, statusAfterError_getLsbD, ErrorCode.code] <;> rfl

end Sys2Proof.Machine
end

