-- ==== Sys2Proof/Laws/Selector.lean ====
section
/-! SUPPORT. The selector's sub-functions: one lemma each for everything they can give (41_selector.md rules R142 to R147). -/

namespace Sys2Proof.Machine

/-- The clamped frequency lies in `[MIN_OUT, MAX_OUT]` (R142). -/
theorem clampedFreq_bounds (c : Cfg) (h : c.WF) (v : Nat) :
    c.minOut ≤ clampedFreq c v ∧ clampedFreq c v ≤ c.maxOut := by
  have := h.minPos.2.1
  unfold clampedFreq clamp
  omega

/-- Everything the R-divider multiplexer can give (R143). -/
theorem rdivSelect_cases (c : Cfg) (f : Nat) :
    (200000 ≤ f ∧ f < 1000000 ∧ rdivSelect c f = ⟨2, 4 * f⟩) ∨
    (50000 ≤ f ∧ f < 200000 ∧ rdivSelect c f = ⟨4, 16 * f⟩) ∨
    (c.minOut ≤ f ∧ f < 50000 ∧ rdivSelect c f = ⟨7, 128 * f⟩) ∨
    ((1000000 ≤ f ∨ f < c.minOut) ∧ rdivSelect c f = ⟨0, f⟩) := by
  unfold rdivSelect
  split_ifs <;> simp <;> omega

/-- The working frequency is the frequency times the R-divider value (R144). -/
theorem rdivSelect_work (c : Cfg) (f : Nat) : (rdivSelect c f).work = f * 2 ^ (rdivSelect c f).rdiv.toNat := by
  rcases rdivSelect_cases c f with ⟨-, -, h⟩ | ⟨-, -, h⟩ | ⟨-, -, h⟩ | ⟨-, h⟩ <;> rw [h] <;> simp <;> omega

/-- No working frequency of a 32-bit frequency reaches 2^32 (R145). -/
theorem rdivSelect_work_lt (c : Cfg) (f : Nat) (h : f < 2 ^ 32) : (rdivSelect c f).work < 2 ^ 32 := by
  rcases rdivSelect_cases c f with ⟨_, _, h'⟩ | ⟨_, _, h'⟩ | ⟨_, _, h'⟩ | ⟨_, h'⟩ <;> rw [h'] <;> dsimp only <;> omega

/-- The working frequency is not below the frequency. -/
theorem rdivSelect_work_ge (c : Cfg) (f : Nat) : f ≤ (rdivSelect c f).work := by
  rcases rdivSelect_cases c f with ⟨-, -, h'⟩ | ⟨-, -, h'⟩ | ⟨-, -, h'⟩ | ⟨-, h'⟩ <;> rw [h'] <;> simp <;> omega

/-- The selector produces the codes 0, 2, 4 and 7 only (R144). -/
theorem rdivSelect_code (c : Cfg) (f : Nat) :
    (rdivSelect c f).rdiv = 0 ∨ (rdivSelect c f).rdiv = 2 ∨ (rdivSelect c f).rdiv = 4 ∨ (rdivSelect c f).rdiv = 7 := by
  rcases rdivSelect_cases c f with ⟨-, -, h'⟩ | ⟨-, -, h'⟩ | ⟨-, -, h'⟩ | ⟨-, h'⟩ <;> rw [h'] <;> simp

/-- Everything the PLL band selection can give (R146). -/
theorem pllSelect_cases (c : Cfg) (f : Nat) :
    (c.b8Lo ≤ f ∧ f < c.b8Hi ∧ pllSelect c f = ⟨8 * f, false⟩) ∨
    (c.b6Lo ≤ f ∧ f < c.b6Hi ∧ pllSelect c f = ⟨6 * f, false⟩) ∨
    (c.b4Lo ≤ f ∧ f < c.b4Hi ∧ pllSelect c f = ⟨4 * f, true⟩) ∨
    (f < 8000 ∧ pllSelect c f = ⟨c.pllMin, false⟩) ∨
    (8000 ≤ f ∧ pllSelect c f = ⟨c.pllMax, false⟩) := by
  unfold pllSelect
  split_ifs <;> simp_all

/-- No PLL frequency of a well-formed configuration reaches 2^32 (R146, `cfg_fit`). -/
theorem pllSelect_lt (c : Cfg) (h : c.WF) (f : Nat) : (pllSelect c f).pll < 2 ^ 32 := by
  obtain ⟨h8, h6, h4, hmin, hmax⟩ := h.fit
  rcases pllSelect_cases c f with ⟨hl, hh, h'⟩ | ⟨hl, hh, h'⟩ | ⟨hl, hh, h'⟩ | ⟨-, h'⟩ | ⟨-, h'⟩ <;> rw [h'] <;> dsimp only
  · have := h8 (by omega); omega
  · have := h6 (by omega); omega
  · have := h4 (by omega); omega
  · exact hmin
  · exact hmax

/-- The clamped frequency fits its latch. -/
theorem plan_fout_toNat (c : Cfg) (h : c.WF) (v : Nat) : (plan c v).fout.toNat = clampedFreq c v := by
  have h1 := (clampedFreq_bounds c h v).2
  have h2 := h.minPos.2.2
  simp only [plan, BitVec.toNat_ofNat]
  exact Nat.mod_eq_of_lt (by omega)

/-- The working frequency fits its latch (R145). -/
theorem plan_fwork_toNat (c : Cfg) (h : c.WF) (v : Nat) :
    (plan c v).fwork.toNat = (rdivSelect c (clampedFreq c v)).work := by
  have h1 := (clampedFreq_bounds c h v).2
  have h2 := h.minPos.2.2
  simp only [plan, BitVec.toNat_ofNat]
  exact Nat.mod_eq_of_lt (rdivSelect_work_lt c _ (by omega))

/-- The PLL frequency fits its latch (R146). -/
theorem plan_fpll_toNat (c : Cfg) (h : c.WF) (v : Nat) :
    (plan c v).fpll.toNat = (pllSelect c (clampedFreq c v)).pll := by
  simp only [plan, BitVec.toNat_ofNat]
  exact Nat.mod_eq_of_lt (pllSelect_lt c h _)

@[simp] theorem plan_rdiv (c : Cfg) (v : Nat) : (plan c v).rdiv = (rdivSelect c (clampedFreq c v)).rdiv := rfl
@[simp] theorem plan_d4 (c : Cfg) (v : Nat) : (plan c v).d4 = (pllSelect c (clampedFreq c v)).d4 := rfl
@[simp] theorem plan_int (c : Cfg) (v : Nat) :
    (plan c v).int = dividerInt c (rdivSelect c (clampedFreq c v)).work := rfl

/-- Whatever frequency is requested, the plan of a well-formed configuration is legal. -/
theorem plan_legal (c : Cfg) (h : c.WF) (v : Nat) : SelLegal c (plan c v) where
  fout := by
    rw [plan_fout_toNat c h]
    exact clampedFreq_bounds c h v
  fpll := by
    rw [plan_fpll_toNat c h]
    exact h.pllRange.2 _ (clampedFreq_bounds c h v).1 (clampedFreq_bounds c h v).2
  fwork := by
    rw [plan_fwork_toNat c h, plan_fout_toNat c h, plan_rdiv]
    exact ⟨rdivSelect_work _ _, (clampedFreq_bounds c h v).1.trans (rdivSelect_work_ge _ _)⟩
  rdiv := rdivSelect_code _ _
  d4 := by
    intro hd
    rw [plan_d4] at hd
    rw [plan_fout_toNat c h, plan_fpll_toNat c h]
    rcases pllSelect_cases c (clampedFreq c v) with ⟨_, _, h'⟩ | ⟨_, _, h'⟩ | ⟨h1, h2, h'⟩ | ⟨_, h'⟩ | ⟨_, h'⟩ <;>
      rw [h'] at hd ⊢ <;> first | exact ⟨h1, h2, rfl⟩ | cases hd
  int := by
    rw [plan_int, plan_fwork_toNat c h]
    simp [dividerInt]

end Sys2Proof.Machine
end

