-- ==== Sys2Proof/Laws/State.lean ====
section
/-! SUPPORT. The small lemmas of the state's operations: one per field per update, each true by unfolding, so that no later
proof unfolds a record update. -/

namespace Sys2Proof.Machine

/-! ### advance -/

@[simp] theorem advance_ports (s : State) : (advance s).ports = s.ports := rfl
@[simp] theorem advance_sel (s : State) : (advance s).sel = s.sel := rfl
@[simp] theorem advance_img (s : State) : (advance s).img = s.img := rfl
@[simp] theorem advance_status (s : State) : (advance s).status = s.status := rfl
@[simp] theorem advance_index (s : State) : (advance s).index = s.index + 1 := rfl
@[simp] theorem advance_resets (s : State) : (advance s).resets = s.resets := rfl

/-! ### raiseError -/

@[simp] theorem raiseError_ports (e : ErrorCode) (s : State) : (raiseError e s).ports = s.ports := rfl
@[simp] theorem raiseError_sel (e : ErrorCode) (s : State) : (raiseError e s).sel = s.sel := rfl
@[simp] theorem raiseError_img (e : ErrorCode) (s : State) : (raiseError e s).img = s.img := rfl
@[simp] theorem raiseError_status (e : ErrorCode) (s : State) : (raiseError e s).status = statusAfterError e s.status := rfl
@[simp] theorem raiseError_index (e : ErrorCode) (s : State) : (raiseError e s).index = s.index + 1 := rfl
@[simp] theorem raiseError_resets (e : ErrorCode) (s : State) : (raiseError e s).resets = s.resets := rfl

/-! ### writeLatches -/

@[simp] theorem writeLatches_ports (p : SelLatches) (s : State) : (writeLatches p s).ports = s.ports := rfl
@[simp] theorem writeLatches_sel (p : SelLatches) (s : State) : (writeLatches p s).sel = p := rfl
@[simp] theorem writeLatches_img (p : SelLatches) (s : State) : (writeLatches p s).img = s.img := rfl
@[simp] theorem writeLatches_status (p : SelLatches) (s : State) : (writeLatches p s).status = statusAfterSelect s.status := rfl
@[simp] theorem writeLatches_index (p : SelLatches) (s : State) : (writeLatches p s).index = s.index + 1 := rfl
@[simp] theorem writeLatches_resets (p : SelLatches) (s : State) : (writeLatches p s).resets = s.resets := rfl

/-! ### writeImage -/

@[simp] theorem writeImage_ports (k : ImageKind) (im : Image) (s : State) : (writeImage k im s).ports = s.ports := rfl
@[simp] theorem writeImage_sel (k : ImageKind) (im : Image) (s : State) : (writeImage k im s).sel = s.sel := rfl
@[simp] theorem writeImage_img (k : ImageKind) (im : Image) (s : State) : (writeImage k im s).img = im := rfl
@[simp] theorem writeImage_status (k : ImageKind) (im : Image) (s : State) : (writeImage k im s).status = statusAfterEncode k s.status := rfl
@[simp] theorem writeImage_index (k : ImageKind) (im : Image) (s : State) : (writeImage k im s).index = s.index + 1 := rfl
@[simp] theorem writeImage_resets (k : ImageKind) (im : Image) (s : State) : (writeImage k im s).resets = s.resets := rfl

/-! ### resetEvent -/

@[simp] theorem resetEvent_ports (s : State) : (resetEvent s).ports = s.ports := rfl
@[simp] theorem resetEvent_sel (s : State) : (resetEvent s).sel = SelLatches.reset := rfl
@[simp] theorem resetEvent_img (s : State) : (resetEvent s).img = Image.reset := rfl
@[simp] theorem resetEvent_status (s : State) : (resetEvent s).status = 0x00 := rfl
@[simp] theorem resetEvent_index (s : State) : (resetEvent s).index = s.index := rfl
@[simp] theorem resetEvent_resets (s : State) : (resetEvent s).resets = s.resets + 1 := rfl

/-! ### driveCommand -/

@[simp] theorem driveCommand_ports (w : Byte) (s : State) : (driveCommand w s).ports = { s.ports with cmd := w, rst := false } := rfl
@[simp] theorem driveCommand_sel (w : Byte) (s : State) : (driveCommand w s).sel = s.sel := rfl
@[simp] theorem driveCommand_img (w : Byte) (s : State) : (driveCommand w s).img = s.img := rfl
@[simp] theorem driveCommand_status (w : Byte) (s : State) : (driveCommand w s).status = s.status := rfl
@[simp] theorem driveCommand_index (w : Byte) (s : State) : (driveCommand w s).index = s.index := rfl
@[simp] theorem driveCommand_resets (w : Byte) (s : State) : (driveCommand w s).resets = s.resets := rfl

/-! ### driveReset -/

@[simp] theorem driveReset_ports (r : Bool) (s : State) : (driveReset r s).ports = { s.ports with rst := r } := rfl
@[simp] theorem driveReset_sel (r : Bool) (s : State) : (driveReset r s).sel = s.sel := rfl
@[simp] theorem driveReset_img (r : Bool) (s : State) : (driveReset r s).img = s.img := rfl
@[simp] theorem driveReset_status (r : Bool) (s : State) : (driveReset r s).status = s.status := rfl
@[simp] theorem driveReset_index (r : Bool) (s : State) : (driveReset r s).index = s.index := rfl
@[simp] theorem driveReset_resets (r : Bool) (s : State) : (driveReset r s).resets = s.resets := rfl

/-! ### driveFreq -/

@[simp] theorem driveFreq_ports (f : Freq) (s : State) : (driveFreq f s).ports = { s.ports with freqIn := f } := rfl
@[simp] theorem driveFreq_sel (f : Freq) (s : State) : (driveFreq f s).sel = s.sel := rfl
@[simp] theorem driveFreq_img (f : Freq) (s : State) : (driveFreq f s).img = s.img := rfl
@[simp] theorem driveFreq_status (f : Freq) (s : State) : (driveFreq f s).status = s.status := rfl
@[simp] theorem driveFreq_index (f : Freq) (s : State) : (driveFreq f s).index = s.index := rfl
@[simp] theorem driveFreq_resets (f : Freq) (s : State) : (driveFreq f s).resets = s.resets := rfl

/-! ### driveRatio -/

@[simp] theorem driveRatio_ports (a : BitVec 32) (b c : BitVec 20) (s : State) : (driveRatio a b c s).ports = { s.ports with aIn := a, bIn := b, cIn := c } := rfl
@[simp] theorem driveRatio_sel (a : BitVec 32) (b c : BitVec 20) (s : State) : (driveRatio a b c s).sel = s.sel := rfl
@[simp] theorem driveRatio_img (a : BitVec 32) (b c : BitVec 20) (s : State) : (driveRatio a b c s).img = s.img := rfl
@[simp] theorem driveRatio_status (a : BitVec 32) (b c : BitVec 20) (s : State) : (driveRatio a b c s).status = s.status := rfl
@[simp] theorem driveRatio_index (a : BitVec 32) (b c : BitVec 20) (s : State) : (driveRatio a b c s).index = s.index := rfl
@[simp] theorem driveRatio_resets (a : BitVec 32) (b c : BitVec 20) (s : State) : (driveRatio a b c s).resets = s.resets := rfl

/-! ### driveArgs and driveLine -/

@[simp] theorem driveArgs_sel (r : RatioArgs) (s : State) : (driveArgs r s).sel = s.sel := rfl
@[simp] theorem driveArgs_img (r : RatioArgs) (s : State) : (driveArgs r s).img = s.img := rfl
@[simp] theorem driveArgs_status (r : RatioArgs) (s : State) : (driveArgs r s).status = s.status := rfl
@[simp] theorem driveArgs_index (r : RatioArgs) (s : State) : (driveArgs r s).index = s.index := rfl
@[simp] theorem driveArgs_resets (r : RatioArgs) (s : State) : (driveArgs r s).resets = s.resets := rfl
@[simp] theorem driveArgs_cmd (r : RatioArgs) (s : State) : (driveArgs r s).ports.cmd = s.ports.cmd := rfl
@[simp] theorem driveArgs_rst (r : RatioArgs) (s : State) : (driveArgs r s).ports.rst = s.ports.rst := rfl
@[simp] theorem driveArgs_freqIn (r : RatioArgs) (s : State) : (driveArgs r s).ports.freqIn = s.ports.freqIn := rfl

@[simp] theorem driveLine_sel (l : Line) (s : State) : (driveLine l s).sel = s.sel := by cases l <;> rfl
@[simp] theorem driveLine_img (l : Line) (s : State) : (driveLine l s).img = s.img := by cases l <;> rfl
@[simp] theorem driveLine_status (l : Line) (s : State) : (driveLine l s).status = s.status := by cases l <;> rfl
@[simp] theorem driveLine_index (l : Line) (s : State) : (driveLine l s).index = s.index := by cases l <;> rfl
@[simp] theorem driveLine_resets (l : Line) (s : State) : (driveLine l s).resets = s.resets := by cases l <;> rfl
@[simp] theorem driveLine_cmd (l : Line) (s : State) : (driveLine l s).ports.cmd = s.ports.cmd := by cases l <;> rfl
@[simp] theorem driveLine_rst (l : Line) (s : State) : (driveLine l s).ports.rst = s.ports.rst := by cases l <;> rfl

/-! ### reset -/

@[simp] theorem reset_ports : State.reset.ports = Ports.idle := rfl
@[simp] theorem reset_sel : State.reset.sel = SelLatches.reset := rfl
@[simp] theorem reset_img : State.reset.img = Image.reset := rfl
@[simp] theorem reset_status : State.reset.status = 0x00 := rfl
@[simp] theorem reset_index : State.reset.index = 0 := rfl
@[simp] theorem reset_resets : State.reset.resets = 0 := rfl

/-! ### what the block samples -/

@[simp] theorem fetch_driveCommand (w : Byte) (s : State) : fetch (driveCommand w s) = w := rfl
@[simp] theorem resetRequested_driveCommand (w : Byte) (s : State) : resetRequested (driveCommand w s) = false := rfl
@[simp] theorem resetRequested_driveReset (r : Bool) (s : State) : resetRequested (driveReset r s) = r := rfl

@[simp] theorem ratioOperands_driveRatio (a : BitVec 32) (b c : BitVec 20) (s : State) :
    ratioOperands (driveRatio a b c s) = ⟨a.toNat, b.toNat, c.toNat⟩ := rfl

@[simp] theorem ratioOperands_driveCommand (w : Byte) (s : State) :
    ratioOperands (driveCommand w s) = ratioOperands s := rfl

@[simp] theorem freqOperand_driveFreq (f : Freq) (s : State) : freqOperand (driveFreq f s) = f.toNat := rfl

@[simp] theorem freqOperand_driveCommand (w : Byte) (s : State) :
    freqOperand (driveCommand w s) = freqOperand s := rfl

end Sys2Proof.Machine
end

