-- ==== Sys2Proof/Laws/Ops.lean ====
section
/-! SUPPORT. What a step, a run of host acts and a host read can do, said once. -/

namespace Sys2Proof.Machine

/-- Everything a step can do (R220, R74, R75). -/
theorem step_cases (s : State) :
    (resetRequested s = true ∧ step s = .next (resetEvent s)) ∨
    (resetRequested s = false ∧ ∃ i, decode (fetch s) = .instr i ∧ step s = exec i s) ∨
    (resetRequested s = false ∧ ∃ why, decode (fetch s) = .illegal why ∧ step s = .next (raiseError .ill s)) := by
  unfold step
  cases hr : resetRequested s
  · cases hd : decode (fetch s) <;> simp
  · simp

/-- Everything a command can do to the state: only the index moves; a plan is latched; an image is written; an error is
recorded. -/
theorem exec_cases (i : Instr) (s : State) :
    (i = .nop ∧ exec i s = .next (advance s)) ∨
    (i = .select ∧ exec i s = .next (writeLatches (plan Config.cfg (freqOperand s)) s)) ∨
    (i = .encpll ∧ exec i s = .next (encodePll s)) ∨
    (∃ int d4 rdiv, i = .encms int d4 rdiv ∧ exec i s = .next (encodeMultiSynth ⟨int, d4, rdiv⟩ s)) ∨
    (i = .encmsS ∧ statusSelv s.status = true ∧ exec i s = .next (encodeMultiSynth (latchedMode s) s)) ∨
    (i = .encmsS ∧ statusSelv s.status = false ∧ exec i s = .next (raiseError .nosel s)) := by
  cases i with
  | nop => exact .inl ⟨rfl, rfl⟩
  | select => exact .inr (.inl ⟨rfl, rfl⟩)
  | encpll => exact .inr (.inr (.inl ⟨rfl, rfl⟩))
  | encms int d4 rdiv => exact .inr (.inr (.inr (.inl ⟨int, d4, rdiv, rfl, rfl⟩)))
  | encmsS =>
    have h : exec .encmsS s = execEncmsS s := rfl
    rw [h]
    unfold execEncmsS
    cases hv : statusSelv s.status <;> simp

/-- One act of a host run and the rest of it. -/
@[simp] theorem andThen_next {α β : Type} (a : α) (k : α → Host.Outcome β Fault Refusal) :
    andThen (.next a) k = k a := rfl

/-- A run goes on after its first act exactly when that act answers a state. -/
theorem andThen_eq_next {α β : Type} (o : Host.Outcome α Fault Refusal) (k : α → Host.Outcome β Fault Refusal) (b : β)
    (h : andThen o k = .next b) : ∃ a, o = .next a ∧ k a = .next b := by
  cases o with
  | next a => exact ⟨a, rfl, h⟩
  | fault r => cases r
  | refused r => cases h

/-- While `SELV` = 1 a host read returns the latch. -/
theorem reads_of_selv (s : State) (h : statusSelv s.status = true) :
    readFout s = s.sel.fout ∧ readFpll s = s.sel.fpll ∧ readFwork s = s.sel.fwork ∧
    readRdiv s = s.sel.rdiv ∧ readD4 s = s.sel.d4 ∧ readInt s = s.sel.int := by
  simp [readFout, readFpll, readFwork, readRdiv, readD4, readInt, h]

/-- While `IMGV` = 1 a host read returns the byte. -/
theorem readImg_of_imgv (s : State) (k : BitVec 3) (h : statusImgv s.status = true) : readImg k s = s.img.byte k := by
  simp [readImg, h]

end Sys2Proof.Machine
end

