-- ==== Sys2Proof/Laws/PerInstr.lean ====
section
/-! SUPPORT. Statements for all instructions, made per instruction. Family `TableRow`: the word the encoder gives a command
selects the command's row of the opcode map (30_encoding.md rule R71) and no other row. -/

namespace Sys2Proof.Laws.TableRow

/-- The command's word selects its own row, and no other row of the map. -/
def Statement (i : Instr) : Prop :=
  i.row ∈ opcodeMap ∧ ∀ r ∈ opcodeMap, r.selects (encode i) = true ↔ r = i.row

theorem nop : Statement .nop := by unfold Statement; decide

theorem select : Statement .select := by unfold Statement; decide

theorem encpll : Statement .encpll := by unfold Statement; decide

theorem encms (int d4 : Bool) (rdiv : RDivCode) : Statement (.encms int d4 rdiv) := by
  unfold Statement
  revert int d4 rdiv
  decide

theorem encmsS : Statement .encmsS := by unfold Statement; decide

end Sys2Proof.Laws.TableRow
end

