-- ==== Sys2Proof/Tests/Slice0.lean ====
section
/-! SUPPORT. The model's own tests. Every expected value is taken from the spec (the vector's name stands beside it) or worked
out from a rule by hand. Part 1: ill-formed terms. Part 2: decoding. Part 3: one step each. Part 4: for each statement with
hypotheses, states and operands that meet them. -/

namespace Sys2Proof.Tests

open Sys2Proof Sys2Proof.Machine

/-- 1,048,575, the `M` of 95_test_vectors.md. -/
abbrev bigM : BitVec 20 := 0xFFFFF#20

/-- A state with a word on `CMD`, ratio operands and a status; everything else as after reset. -/
def at' (w : Byte) (a : BitVec 32) (b c : BitVec 20) (st : Byte) : State :=
  { driveCommand w (driveRatio a b c State.reset) with status := st }

/-- The next state of an answer, if there is one. -/
def nextOf : Result → Option State
  | .next t => some t
  | _ => none

/-- The image and the status after one step. -/
def imgStatus (s : State) : Option (Image × Byte) := (nextOf (step s)).map fun t => (t.img, t.status)

/-! ### Part 1. Ill-formed terms, each refused by its check -/

theorem test_tc1_wf : Config.tc1.WF := Config.tc1_wf

theorem test_cfg_min_pos_refuses : ¬ { Config.tc1 with minOut := 0 }.minPos := by decide
theorem test_cfg_band_order_refuses : ¬ { Config.tc1 with b6Hi := 1 }.bandOrder := by decide
theorem test_cfg_band_disjoint_refuses : ¬ { Config.tc1 with b8Lo := 7999 }.bandDisjoint := by decide
theorem test_cfg_fit_refuses : ¬ { Config.tc1 with pllMax := 4294967296 }.fit := by decide
theorem test_cfg_pll_range_refuses : ¬ { Config.tc1 with pllMax := 700000000 }.pllRange := by
  intro h
  exact absurd (h.2 100000000 (by decide) (by decide)).2 (by decide)

theorem test_line_refuses_frequency : (Line.select 4294967296).wf = false := by decide
theorem test_line_refuses_a : (Line.encpll ⟨some 4294967296, none, none⟩).wf = false := by decide
theorem test_line_refuses_b : (Line.encpll ⟨none, some 1048576, none⟩).wf = false := by decide
theorem test_line_refuses_c : (Line.encmsS ⟨none, none, some 1048576⟩).wf = false := by decide
theorem test_line_refuses_int : (Line.encms ⟨none, none, none⟩ (some 2) none none).wf = false := by decide
theorem test_line_refuses_d4 : (Line.encms ⟨none, none, none⟩ none (some 2) none).wf = false := by decide
theorem test_line_refuses_rdiv : (Line.encmsFrac ⟨none, none, none⟩ 8).wf = false := by decide

/-! ### Part 2. Decoding: words written out bit by bit from 30_encoding.md R71, and 95_test_vectors.md V-ILL -/

theorem test_decode_nop : decode 0b00000000#8 = .instr .nop := by decide
theorem test_decode_select : decode 0b00000001#8 = .instr .select := by decide
theorem test_decode_encpll : decode 0b00000010#8 = .instr .encpll := by decide
/-- `0RRRDI11` with RDIV = 101, D4 = 1, INT = 0. -/
theorem test_decode_encms_d4 : decode 0b01011011#8 = .instr (.encms false true 5) := by decide
/-- `0RRRDI11` with RDIV = 011, D4 = 0, INT = 1 (V-MS-9). -/
theorem test_decode_encms_int : decode 0b00110111#8 = .instr (.encms true false 3) := by decide
theorem test_decode_encmsS : decode 0b10000011#8 = .instr .encmsS := by decide
theorem test_decode_illegal :
    decode 0x80 = .illegal .nopReserved ∧ decode 0xFD = .illegal .selectReserved ∧
    decode 0x8A = .illegal .encpllReserved ∧ decode 0xF3 = .illegal .encmsSReserved := by decide
theorem test_decodeTableWord : decodeTableWord 8 0x83 = some .encmsS ∧ decodeTableWord 8 0x04 = none := by decide
/-- Every row's word runs as the first command after reset. -/
theorem test_withFetchWord : fetch (State.reset.withFetchWord 8 0x7F) = 0x7F ∧
    resetRequested ((driveReset true State.reset).withFetchWord 8 0x02) = false := by decide

/-! ### Part 3. One step each -/

/-- V-NOP-2. -/
theorem test_nop : nextOf (step (at' 0x00 0 0 0 0x23)) = some { at' 0x00 0 0 0 0x23 with index := 1 } := by decide

/-- V-SEL-8, under TC1: f = 100000. -/
theorem test_select_100kHz :
    plan Config.tc1 100000 = ⟨100000, 900000000, 1600000, 4, false, false⟩ := by decide
/-- V-SEL-22, V-SEL-18 and V-SEL-4, under TC1: the clamp, the last ×6 value, the last very-low value. -/
theorem test_select_edges :
    plan Config.tc1 225000001 = ⟨225000000, 900000000, 225000000, 0, true, true⟩ ∧
    plan Config.tc1 149999999 = ⟨149999999, 899999994, 149999999, 0, false, false⟩ ∧
    plan Config.tc1 7999 = ⟨7999, 600000000, 1023872, 7, false, false⟩ := by decide

/-- V-PLL-10: the largest P1. -/
theorem test_encpll_largest_p1 :
    imgStatus (at' 0x02 2051 1048574 bigM 0) = some (⟨0xFF, 0xFF, 0x03, 0xFF, 0xFF, 0xFF, 0xFF, 0x7F⟩, 0x02) := by decide
/-- V-PLL-15: a = 3 fails whatever b is. -/
theorem test_encpll_a_too_small :
    imgStatus (at' 0x02 3 1048574 bigM 0x07) = some (Image.reset, 0x27) := by decide

/-- V-MS-1: the ÷128 path. -/
theorem test_encms_div128 :
    imgStatus (at' 0x73 878 950271 bigM 0) = some (⟨0xFF, 0xFF, 0x71, 0xB5, 0x73, 0xFF, 0xFF, 0xF3⟩, 0x06) := by decide
/-- V-MS-5: the override with the divide-by-4 flag ignores the ratio. -/
theorem test_encms_div4 :
    imgStatus (at' 0x0F 0 0 0 0) = some (⟨0x00, 0x01, 0x0C, 0, 0, 0, 0, 0⟩, 0x06) := by decide

/-- V-MSS-2: `E_NOSEL` only, not `E_RNG`. -/
theorem test_encmsS_nosel : imgStatus (at' 0x83 0 0 0 0) = some (Image.reset, 0x40) := by decide
/-- V-MSS-8: after `SELECT f=200000` under TC1, 900 MHz / 800 kHz. -/
theorem test_encmsS_div4 :
    imgStatus { at' 0x83 1125 0 bigM 0x01 with sel := plan Config.tc1 200000 } =
      some (⟨0xFF, 0xFF, 0x22, 0x30, 0x80, 0xF0, 0x00, 0x00⟩, 0x07) := by decide

/-- V-PRI-1: an illegal word, `E_ILL` only. -/
theorem test_illegal : imgStatus (at' 0x87 0 0 0 0) = some (Image.reset, 0x10) := by decide
/-- V-RST-1: the reset event clears `STATUS`. -/
theorem test_reset_event :
    (nextOf (step (driveReset true (at' 0x02 36 0 bigM 0x77)))).map (fun t => t.status) = some 0x00#8 := by decide

/-- R12: 25 MHz with a correction of 200 parts per ten million is 25,000,500 Hz. -/
theorem test_effectiveCrystal : effectiveCrystal 25000000 200 = 25000500 := by norm_num [effectiveCrystal]

/-- The ratios of 95_test_vectors.md L1-1, L1-2, L1-3 and of its table of L1-4e. -/
theorem test_approximate :
    approximate 56000000 7000000 1048575 = ⟨8, 0, bigM⟩ ∧ approximate 56000000 25000000 1048575 = ⟨2, 251658, bigM⟩ ∧
    approximate 900000000 7000000 1048575 = ⟨128, 599185, bigM⟩ ∧
    approximate 900000000 1600000 1048575 = ⟨562, 524287, bigM⟩ ∧
    approximate 640000000 25000000 1048575 = ⟨25, 629145, bigM⟩ ∧
    approximate 600000000 512000 1048575 = ⟨1171, 917503, bigM⟩ ∧
    approximate 900000000 1024000 1048575 = ⟨878, 950271, bigM⟩ := by decide

/-- What the spec does fix where a port or binary64 gives out: c for a numerator above 2^53, and a for a maxDenominator no port
can hold (R14: a is the integer quotient). -/
theorem test_approximate_open :
    (approximate 9007199254740993 9007199254740993 1048575).c = bigM ∧ (approximate 56000000 7000000 1048576).a = 8 := by decide

/-! ### Part 4. Witnesses: what meets the hypotheses of each statement -/

/-- Ratio operands in range, at both ends of the range: RatioContractIsRange, FieldsRepresentRatio, ModeOperandsArePacked,
EncpllEncodesOrRaises, PllImageRoundTrip, MultiSynthImageRoundTrip, EncmsSUsesLatestSelect, ReadsReturnLatestWrite. -/
theorem witness_ratio_in_range :
    RatioInRange ⟨4, 0, 1⟩ ∧ RatioInRange ⟨2051, 1048574, 1048575⟩ ∧
    RatioInRange (ratioOperands (at' 0x02 4 0 1 0)) ∧ RatioInRange (ratioOperands (at' 0x02 2051 1048574 bigM 0)) ∧
    (ratioOperands (at' 0x02 2051 1048574 bigM 0)).c < 2 ^ 20 := by decide

/-- One state for each way the ratio operands can be out of range, at the boundary: EncpllEncodesOrRaises,
OutOfRangeRatioRaisesRng. -/
theorem witness_ratio_out_of_range :
    (ratioOperands (at' 0x02 10 0 0 0)).c = 0 ∧
    (ratioOperands (at' 0x02 10 5 5 0)).b ≥ (ratioOperands (at' 0x02 10 5 5 0)).c ∧
    (ratioOperands (at' 0x02 3 0 1 0)).a ≤ 3 ∧ (ratioOperands (at' 0x02 2052 0 1 0)).a ≥ 2052 ∧
    ¬ RatioInRange (ratioOperands (at' 0x02 3 0 1 0)) := by decide

theorem witness_StepRunsDecodedCommand :
    (at' 0x01 0 0 0 0).ports.rst = false ∧ decode (at' 0x01 0 0 0 0).ports.cmd = .instr .select := by decide

theorem witness_DecodeEncodeAgree : decode 0x83 = .instr .encmsS ∧ decode 0x7F = .instr (.encms true true 7) := by decide

theorem witness_IllegalWordRaisesIll :
    (at' 0x04 0 0 0 0).ports.rst = false ∧ (decode (at' 0x04 0 0 0 0).ports.cmd).toOption = none := by decide

theorem witness_PseudoCommandWords : (⟨some 36, some 0, some 1048575⟩ : RatioArgs).wf = true ∧ 7 < 8 := by decide

theorem witness_LineIsOneTransaction :
    (Line.encms ⟨some 36, some 0, none⟩ none (some 1) (some 7)).instr = some (.encms false true 7) ∧
    (Line.select 4294967295).instr = some .select ∧ (Line.encpll ⟨none, some 1048575, none⟩).instr = some .encpll ∧
    lineFreq (.select 4294967295) = some 4294967295 ∧ (lineRatio (.encpll ⟨none, some 1048575, none⟩)).b = some 1048575 := by
  decide

/-- An omitted operand between two given ones keeps its own port (R77). -/
theorem test_line_keeps_omitted_port :
    (driveLine (.encmsS ⟨some 36, none, some 7⟩) (at' 0x00 1 2 3 0)).ports = (at' 0x00 36 2 7 0).ports := by decide

theorem witness_SelectFrame : ∃ t, exec .select State.reset = .next t := ⟨_, rfl⟩

theorem witness_SelectDependsOnFreqAlone :
    (at' 0x01 1 2 3 0x70).ports.freqIn = State.reset.ports.freqIn ∧ at' 0x01 1 2 3 0x70 ≠ State.reset := by decide

/-- Below and above the clamp range, under TC1. -/
theorem witness_ClampLaw :
    Config.tc1.WF ∧ (3999#32).toNat < Config.tc1.minOut ∧ Config.tc1.maxOut < (225000001#32).toNat :=
  ⟨Config.tc1_wf, by decide, by decide⟩

/-- The clamped range of TC1 and the edges of its R-divider bands. -/
theorem witness_RDividerBandsPartition :
    Config.tc1.WF ∧ ∀ f ∈ [4000, 49999, 50000, 199999, 200000, 999999, 1000000, 225000000],
      Config.tc1.minOut ≤ f ∧ f ≤ Config.tc1.maxOut :=
  ⟨Config.tc1_wf, by decide⟩

/-- A frequency at an edge of each PLL band of TC1, and one in none. -/
theorem witness_PllBandsDecideAlone :
    Config.tc1.WF ∧ (Config.tc1.b8Lo ≤ 75000000 ∧ 75000000 < Config.tc1.b8Hi) ∧
    (Config.tc1.b6Lo ≤ 149999999 ∧ 149999999 < Config.tc1.b6Hi) ∧
    (Config.tc1.b4Lo ≤ 150000000 ∧ 150000000 < Config.tc1.b4Hi) ∧ 7999 < 8000 ∧
    (¬ (Config.tc1.b8Lo ≤ 8000 ∧ 8000 < Config.tc1.b8Hi) ∧ ¬ (Config.tc1.b6Lo ≤ 8000 ∧ 8000 < Config.tc1.b6Hi) ∧
      ¬ (Config.tc1.b4Lo ≤ 8000 ∧ 8000 < Config.tc1.b4Hi) ∧ 8000 ≤ 8000) :=
  ⟨Config.tc1_wf, by decide⟩

theorem witness_PlanReachesOutputFrequency : Config.tc1.WF ∧ 0 < Config.tc1.pllMin := ⟨Config.tc1_wf, by decide⟩

/-- `ENCMS` and `ENCPLL` complete from a state in range, and with int = 1 from one that is not: EncpllIgnoresLatches,
EncmsIgnoresLatches, IntegerModeIgnoresRatio, OnlySelectWritesLatches, OnlyEncodesWriteImage, EncodeFrame. -/
theorem witness_encodes_complete :
    (∃ t, exec .encpll (at' 0x02 36 0 bigM 0) = .next t) ∧
    (∃ t, exec (.encms true true 7) (at' 0x7F 0 0 0 0) = .next t) ∧
    (∃ t, exec (.encms false true 7) (at' 0x7B 36 0 bigM 0) = .next t) := ⟨⟨_, rfl⟩, ⟨_, rfl⟩, ⟨_, rfl⟩⟩

/-- Every one of the other commands answers a state too: OnlySelectWritesLatches, OnlyEncodesWriteImage, EncodeFrame. -/
theorem witness_exec_next :
    (∃ t, exec .nop State.reset = .next t) ∧ (∃ t, exec .encmsS State.reset = .next t) ∧
    (∃ t, exec .encmsS (at' 0x83 36 0 bigM 0x01) = .next t) := ⟨⟨_, rfl⟩, ⟨_, rfl⟩, ⟨_, rfl⟩⟩

/-- EncmsSNeedsSelect, and the second case of EncmsSIsEncmsOnLatches. -/
theorem witness_EncmsSNeedsSelect : State.reset.status.getLsbD 0 = false := by decide

/-- A latched plan with DividerMode Integer and no ratio, and one with Fractional and a ratio in range; the first case of
EncmsSIsEncmsOnLatches too. -/
theorem witness_EncmsSCompletes :
    ({ at' 0x83 0 0 0 0x01 with sel := plan Config.tc1 150000000 }.status.getLsbD 0 = true ∧
      { at' 0x83 0 0 0 0x01 with sel := plan Config.tc1 150000000 }.sel.int = true) ∧
    ({ at' 0x83 878 950271 bigM 0x01 with sel := plan Config.tc1 8000 }.status.getLsbD 0 = true ∧
      RatioInRange (ratioOperands { at' 0x83 878 950271 bigM 0x01 with sel := plan Config.tc1 8000 })) := by decide

/-- Each command that takes the fractional path, in a state where it does. -/
theorem witness_OutOfRangeRatioRaisesRng :
    takesFractionalPath .encpll (at' 0x02 3 0 1 0) = true ∧
    takesFractionalPath (.encms false true 1) (at' 0x1B 3 0 1 0) = true ∧
    takesFractionalPath .encmsS (at' 0x83 3 0 1 0x01) = true ∧ (at' 0x83 3 0 1 0x01).status.getLsbD 0 = true := by decide

/-- Its other two cases: operands in range at both ends, and commands that do not take the fractional path. -/
theorem witness_OutOfRangeRatioRaisesRng_converse :
    ¬ ((ratioOperands (at' 0x02 4 0 1 0)).c = 0 ∨ (ratioOperands (at' 0x02 4 0 1 0)).b ≥ (ratioOperands (at' 0x02 4 0 1 0)).c ∨
      (ratioOperands (at' 0x02 4 0 1 0)).a ≤ 3 ∨ (ratioOperands (at' 0x02 4 0 1 0)).a ≥ 2052) ∧
    ¬ ((ratioOperands (at' 0x02 2051 0 1 0)).c = 0 ∨
      (ratioOperands (at' 0x02 2051 0 1 0)).b ≥ (ratioOperands (at' 0x02 2051 0 1 0)).c ∨
      (ratioOperands (at' 0x02 2051 0 1 0)).a ≤ 3 ∨ (ratioOperands (at' 0x02 2051 0 1 0)).a ≥ 2052) ∧
    takesFractionalPath .select State.reset = false ∧ takesFractionalPath (.encms true false 0) State.reset = false ∧
    State.reset.status.getLsbD 0 = false := by decide

/-- A state for each error of the priority order, and one with none. -/
theorem witness_ErrorsByPriority :
    commandError (at' 0x87 0 0 0 0) = some 4 ∧ commandError (at' 0x83 0 0 0 0) = some 6 ∧
    commandError (at' 0x02 0 0 0 0) = some 5 ∧ commandError (at' 0x02 36 0 bigM 0x70) = none ∧
    (at' 0x87 0 0 0 0).ports.rst = false := by decide

/-- A step from a state with error bits set, which are kept; a step for CommandAdvancesIndex too. -/
theorem witness_ErrorBitsAreSticky :
    (at' 0x02 36 0 bigM 0x70).ports.rst = false ∧ (∃ t, step (at' 0x02 36 0 bigM 0x70) = .next t) ∧
    (∀ e, statusError e (at' 0x02 36 0 bigM 0x70).status = true) ∧ ErrorCode.ill ≠ ErrorCode.rng :=
  ⟨rfl, ⟨_, rfl⟩, fun e => by cases e <;> rfl, by decide⟩

/-- A step that records an error which was not set before. -/
theorem witness_AtMostOneNewError :
    ∃ t, step (at' 0x87 0 0 0 0) = .next t ∧ statusError .ill (at' 0x87 0 0 0 0).status = false ∧
      statusError .ill t.status = true :=
  ⟨_, rfl, rfl, rfl⟩

/-- An encode that leaves `E_RNG` and `E_NOSEL` at 0. -/
theorem witness_CleanStatusMeansFreshImage :
    ∃ t, exec .encpll (at' 0x02 36 0 bigM 0) = .next t ∧ statusError .rng t.status = false ∧
      statusError .nosel t.status = false :=
  ⟨_, rfl, by decide, by decide⟩

theorem witness_ValidBitsStay :
    (at' 0x00 0 0 0 0x03).status.getLsbD 0 = true ∧ (at' 0x00 0 0 0 0x03).status.getLsbD 1 = true ∧
    (at' 0x00 0 0 0 0x03).ports.rst = false ∧ ∃ t, step (at' 0x00 0 0 0 0x03) = .next t :=
  ⟨rfl, rfl, rfl, ⟨_, rfl⟩⟩

theorem witness_ResetEventClears : (driveReset true State.reset).ports.rst = true := rfl

theorem witness_UnwrittenReadsIgnoreStorage :
    State.reset.status.getLsbD 0 = false ∧ State.reset.status.getLsbD 1 = false := by decide

/-- The invariant holds in a state whose latches and image are both valid, and a step goes on from it; the premise of
HostRunKeepsInvariant too. -/
theorem witness_StepKeepsInvariant :
    ∃ s t, StateInv s ∧ statusSelv s.status = true ∧ statusImgv s.status = true ∧ step s = .next t := by
  refine ⟨{ at' 0x83 36 0 bigM 0x07 with
    sel := plan Config.cfg 100000, img := ⟨0xFF, 0xFF, 0x41, 0x17, 0x3F, 0xFF, 0xFF, 0xBF⟩ }, _, ?_, rfl, rfl, rfl⟩
  refine ⟨⟨rfl, rfl⟩, fun _ => plan_legal _ Config.chip.wf _, fun _ => ?_, fun h => ?_⟩
  · exact ⟨by decide, by decide, fun h => absurd h (by decide), by decide, by decide⟩
  · exact absurd h (by decide)

/-- ReadsReturnLatestWrite: a step that raises an error over a valid plan and image, whose reads are those of its storage; the
steps of the other clauses are those of the witnesses above. -/
theorem witness_ReadsReturnLatestWrite :
    commandError (at' 0x87 0 0 0 0x03) = some 4 ∧ (at' 0x87 0 0 0 0x03).ports.rst = false ∧
    decode (at' 0x87 0 0 0 0x03).ports.cmd ≠ .instr .select ∧
    (at' 0x87 0 0 0 0x03).status.getLsbD 0 = true ∧ (at' 0x87 0 0 0 0x03).status.getLsbD 1 = true ∧
    ReadsPlan (at' 0x87 0 0 0 0x03) SelLatches.reset ∧ ReadsImage (at' 0x87 0 0 0 0x03) Image.reset ∧
    ∃ t, step (at' 0x87 0 0 0 0x03) = .next t :=
  ⟨by decide, rfl, by decide, rfl, rfl, ⟨rfl, rfl, rfl, rfl, rfl, rfl⟩, ⟨rfl, rfl, rfl, rfl, rfl, rfl, rfl, rfl⟩, ⟨_, rfl⟩⟩

/-- An approximator whose ratios are in range, for `setFrequency` with a crystal. The Integer case needs no second ratio. -/
theorem witness_SetFrequencyProgramsChip :
    ∃ approx : Approximator, 25000000 ≠ 0 ∧ ∀ n d m,
      RatioInRange ⟨(approx n d m).a.toNat, (approx n d m).b.toNat, (approx n d m).c.toNat⟩ :=
  ⟨fun _ _ _ => ⟨36, 0, 1⟩, by decide, fun _ _ _ => by simp [RatioInRange]⟩

end Sys2Proof.Tests
end

section
/-! SUPPORT. The statements of 10_state.md: one classification of what a command does to the state, from which each field's
behaviour over a step follows. -/

namespace Sys2Proof.Machine

/-- The four effects a command can have on s: each command completes by exactly one of the state's operations
(10_state.md R28, R29; 60_exceptions.md R182). -/
inductive CommandEffect (s : State) : State → Prop where
  /-- Only the index moves (`NOP`). -/
  | advance : CommandEffect s (advance s)
  /-- An error is recorded. -/
  | raiseError (e : ErrorCode) : CommandEffect s (raiseError e s)
  /-- A plan is latched (`SELECT`). -/
  | writeLatches (p : SelLatches) : CommandEffect s (writeLatches p s)
  /-- An image is written (the encodes). -/
  | writeImage (k : ImageKind) (im : Image) : CommandEffect s (writeImage k im s)

theorem commandEffect_encodePll (s : State) : CommandEffect s (encodePll s) := by
  obtain ⟨-, h⟩ | ⟨-, h⟩ := encodePll_cases s
  · rw [h]; exact .writeImage _ _
  · rw [h]; exact .raiseError .rng

theorem commandEffect_encodeMultiSynth (m : ModeFields) (s : State) : CommandEffect s (encodeMultiSynth m s) := by
  obtain ⟨-, h⟩ | ⟨-, -, h⟩ | ⟨-, -, h⟩ := encodeMultiSynth_cases m s
  · rw [h]; exact .writeImage _ _
  · rw [h]; exact .writeImage _ _
  · rw [h]; exact .raiseError .rng

/-- Every decoded command completes, with one of the four effects. -/
theorem exec_commandEffect (i : Instr) (s : State) : ∃ t, exec i s = .next t ∧ CommandEffect s t := by
  obtain ⟨-, h⟩ | ⟨-, h⟩ | ⟨-, h⟩ | ⟨int, d4, rdiv, -, h⟩ | ⟨-, -, h⟩ | ⟨-, -, h⟩ := exec_cases i s
  · exact ⟨_, h, .advance⟩
  · exact ⟨_, h, .writeLatches _⟩
  · exact ⟨_, h, commandEffect_encodePll s⟩
  · exact ⟨_, h, commandEffect_encodeMultiSynth _ s⟩
  · exact ⟨_, h, commandEffect_encodeMultiSynth _ s⟩
  · exact ⟨_, h, .raiseError .nosel⟩

/-- With `RST` not asserted a step has one of the four effects, an illegal word included (30_encoding.md R75). -/
theorem commandEffect_of_step {s t : State} (hrst : s.ports.rst = false) (h : step s = .next t) : CommandEffect s t := by
  have hreq : resetRequested s = false := hrst
  obtain ⟨hr, -⟩ | ⟨-, i, -, hstep⟩ | ⟨-, why, -, hstep⟩ := step_cases s
  · exact absurd hr (by simp [hreq])
  · obtain ⟨t', hexec, heffect⟩ := exec_commandEffect i s
    cases (hstep.trans hexec).symm.trans h
    exact heffect
  · cases hstep.symm.trans h
    exact .raiseError .ill

namespace CommandEffect

variable {s t : State}

theorem index_eq (h : CommandEffect s t) : t.index = s.index + 1 := by cases h <;> rfl

theorem ports_eq (h : CommandEffect s t) : t.ports = s.ports := by cases h <;> rfl

/-- No effect clears an error bit: only `raiseError` touches one, and it sets it. -/
theorem statusError_of_statusError (h : CommandEffect s t) (e : ErrorCode) (he : statusError e s.status = true) :
    statusError e t.status = true := by
  cases h with
  | advance => exact he
  | raiseError e' => simp [he]
  | writeLatches p => simpa using he
  | writeImage k im => simpa using he

end CommandEffect

/-- Recording e leaves every other condition's bit. -/
theorem statusError_raiseError_of_ne (s : State) {e e' : ErrorCode} (hne : e' ≠ e) :
    statusError e' (raiseError e s).status = statusError e' s.status := by
  simp [hne]

/-- Settles O40: each of the four effects of a command keeps a set error bit. -/
theorem errorBitsAreSticky : Obligations.ErrorBitsAreSticky :=
  ⟨fun _ _ e hrst hstep => (commandEffect_of_step hrst hstep).statusError_of_statusError e,
    fun s _ _ hne => statusError_raiseError_of_ne s hne⟩

/-- Settles O44: each of the four effects of a command advances the index by 1 and keeps the ports. -/
theorem commandAdvancesIndex : Obligations.CommandAdvancesIndex := fun _ _ hrst hstep =>
  ⟨(commandEffect_of_step hrst hstep).index_eq, (commandEffect_of_step hrst hstep).ports_eq⟩

/-- Settles O49: `STATUS` after reset is the zero byte, so each of its bits is 0. -/
theorem resetStatusIsZero : Obligations.ResetStatusIsZero :=
  ⟨reset_status, rfl, rfl, rfl, fun e => by cases e <;> rfl⟩

end Sys2Proof.Machine
end

section
/-! SUPPORT. The statements of 30_encoding.md, Part 1: the fields of a command word, in arithmetic and side by side, and from
them the decoder's table, the opcode map and the assembler's pseudo-commands. -/

namespace Sys2Proof

/-! ### The fields of a word in plain arithmetic (R70) -/

theorem fieldOp_eq_iff (w : Byte) (k : BitVec 2) : fieldOp w = k ↔ w.toNat % 4 = k.toNat := by
  rw [← BitVec.toNat_inj, fieldOp, BitVec.extractLsb'_toNat, Nat.shiftRight_zero]

theorem fieldHigh_eq_zero_iff (w : Byte) : fieldHigh w = 0 ↔ w.toNat / 4 = 0 := by
  have hw := w.isLt
  rw [← BitVec.toNat_inj, fieldHigh, BitVec.extractLsb'_toNat, Nat.shiftRight_eq_div_pow]
  change w.toNat / 4 % 64 = 0 ↔ _
  omega

theorem fieldMode_eq_zero_iff (w : Byte) : fieldMode w = 0 ↔ w.toNat / 4 % 32 = 0 := by
  rw [← BitVec.toNat_inj, fieldMode, BitVec.extractLsb'_toNat, Nat.shiftRight_eq_div_pow]
  rfl

theorem getLsbD_eq_beq (w : Byte) (k : Nat) : w.getLsbD k = (w.toNat / 2 ^ k % 2 == 1) :=
  Nat.testBit_eq_decide_div_mod_eq

theorem fieldS_eq_false_iff (w : Byte) : fieldS w = false ↔ w.toNat / 128 = 0 := by
  have hw := w.isLt
  rw [fieldS, getLsbD_eq_beq]
  simp only [beq_eq_false_iff_ne]
  omega

theorem fieldRdiv_eq_ofNat (w : Byte) : fieldRdiv w = BitVec.ofNat 3 (w.toNat / 16) := by
  refine BitVec.eq_of_toNat_eq ?_
  rw [fieldRdiv, BitVec.extractLsb'_toNat, Nat.shiftRight_eq_div_pow, BitVec.toNat_ofNat]

/-! ### A word is its fields side by side (R70) -/

theorem fieldHigh_append_fieldOp (w : Byte) : fieldHigh w ++ fieldOp w = w :=
  (BitVec.extractLsb'_append_extractLsb'_eq_extractLsb' rfl).trans BitVec.extractLsb'_eq_self

theorem ofBool_getLsbD_eq_extractLsb' (w : Byte) (k : Nat) : BitVec.ofBool (w.getLsbD k) = w.extractLsb' k 1 := by
  refine BitVec.eq_of_getLsbD_eq fun i hi => ?_
  obtain rfl : i = 0 := by omega
  simp

theorem fieldS_append_fieldMode (w : Byte) : BitVec.ofBool (fieldS w) ++ fieldMode w = fieldHigh w := by
  rw [fieldS, ofBool_getLsbD_eq_extractLsb']
  exact BitVec.extractLsb'_append_extractLsb'_eq_extractLsb' rfl

theorem encmsFields_append (w : Byte) :
    BitVec.ofBool (fieldS w) ++ fieldRdiv w ++ BitVec.ofBool (fieldD4 w) ++ BitVec.ofBool (fieldInt w) ++ fieldOp w = w := by
  simp only [fieldS, fieldD4, fieldInt, ofBool_getLsbD_eq_extractLsb', fieldRdiv, fieldOp]
  simp only [BitVec.extractLsb'_append_extractLsb'_eq_extractLsb']
  exact BitVec.extractLsb'_eq_self

/-! ### The decoder (R74) -/

/-- The decoder's case table in plain arithmetic. -/
theorem decode_toOption (w : Byte) :
    (decode w).toOption =
      if w.toNat % 4 = 0 then (if w.toNat / 4 = 0 then some .nop else none)
      else if w.toNat % 4 = 1 then (if w.toNat / 4 = 0 then some .select else none)
      else if w.toNat % 4 = 2 then (if w.toNat / 4 = 0 then some .encpll else none)
      else if w.toNat / 128 = 0 then
        some (.encms (w.toNat / 4 % 2 == 1) (w.toNat / 8 % 2 == 1) (BitVec.ofNat 3 (w.toNat / 16)))
      else if w.toNat / 4 % 32 = 0 then some .encmsS else none := by
  simp only [decode, fieldOp_eq_iff, fieldHigh_eq_zero_iff, fieldS_eq_false_iff, fieldMode_eq_zero_iff, fieldInt, fieldD4,
    getLsbD_eq_beq, fieldRdiv_eq_ofNat, apply_ite Decoded.toOption]
  rfl

/-- A legal word is the one the encoder gives its command: the decoder drops no bit. -/
theorem encode_of_decode {w : Byte} {i : Instr} (h : decode w = .instr i) : encode i = w := by
  have hfields := fieldHigh_append_fieldOp w
  unfold decode at h
  split_ifs at h with h0 hhigh h1 hhigh h2 hhigh hS hmode <;> cases h
  · rw [hhigh, h0] at hfields
    exact hfields
  · rw [hhigh, h1] at hfields
    exact hfields
  · rw [hhigh, h2] at hfields
    exact hfields
  · have hop : fieldOp w = 0b11#2 := by bv_omega
    have hencms := encmsFields_append w
    rw [hS, hop] at hencms
    exact hencms
  · have hop : fieldOp w = 0b11#2 := by bv_omega
    rw [← fieldS_append_fieldMode, hmode, hop, Bool.eq_true_of_not_eq_false hS] at hfields
    exact hfields

theorem legalWords_length :
    ((List.range 256).filter fun w => (decode (BitVec.ofNat 8 w)).toOption.isSome).length = 36 := by
  decide

theorem encmsWords_length :
    ((List.range 256).filter fun w => (decode (BitVec.ofNat 8 w)).toOption.map Instr.row == some rowEncms).length = 32 := by
  decide

/-- The illegal words are the rest of the 256. -/
theorem illegalWords_length :
    ((List.range 256).filter fun w => (decode (BitVec.ofNat 8 w)).toOption.isNone).length = 220 := by
  have hsplit := List.length_eq_length_filter_add (l := List.range 256) fun w => (decode (BitVec.ofNat 8 w)).toOption.isSome
  simp only [Option.not_isSome, List.length_range, legalWords_length] at hsplit
  omega

/-- Settles O2: the case table in arithmetic, and the legal words counted over all 256. -/
theorem decoderFollowsTable : Obligations.DecoderFollowsTable :=
  ⟨decode_toOption, legalWords_length, encmsWords_length, illegalWords_length⟩

/-! ### The opcode map (R71) -/

/-- The word of every command selects the command's row and no other. -/
theorem tableRow_statement (i : Instr) : Laws.TableRow.Statement i := by
  cases i with
  | nop => exact Laws.TableRow.nop
  | select => exact Laws.TableRow.select
  | encpll => exact Laws.TableRow.encpll
  | encms int d4 rdiv => exact Laws.TableRow.encms int d4 rdiv
  | encmsS => exact Laws.TableRow.encmsS

/-- Each row stands in the map once. -/
theorem filter_eq_row : ∀ r ∈ opcodeMap, opcodeMap.filter (· == r) = [r] := by
  decide

theorem filter_selects_encode (i : Instr) : opcodeMap.filter (fun r => r.selects (encode i)) = [i.row] := by
  have hrow : ∀ r ∈ opcodeMap, r.selects (encode i) = (r == i.row) := fun r hr => by
    rw [Bool.eq_iff_iff, (tableRow_statement i).2 r hr, beq_iff_eq]
  rw [List.filter_congr hrow]
  exact filter_eq_row i.row (tableRow_statement i).1

/-- A row whose mask is 0xFF is selected by one word only. -/
theorem eq_matchBits_of_selects {r : OpcodeRow} {w : Byte} (hmask : r.maskBits = 0xFF#8) (h : r.selects w = true) :
    w = r.matchBits := by
  have hw : w &&& 0xFF#8 = w := BitVec.and_allOnes
  rw [OpcodeRow.selects, hmask, hw] at h
  exact eq_of_beq h

/-- The row of `ENCMS` fixes `OP` and `S`, so a word that selects it is an `ENCMS`. -/
theorem decode_of_selects_rowEncms {w : Byte} (h : rowEncms.selects w = true) :
    decode w = .instr (.encms (fieldInt w) (fieldD4 w) (fieldRdiv w)) := by
  have hw : w &&& 0x83#8 = 0x03#8 := eq_of_beq h
  have hop : fieldOp w = 0b11#2 := by
    have hop := congrArg fieldOp hw
    rw [fieldOp, BitVec.extractLsb'_and] at hop
    exact BitVec.and_allOnes.symm.trans hop
  have hS : fieldS w = false := by
    have hS := congrArg fieldS hw
    rw [fieldS, BitVec.getLsbD_and] at hS
    exact (Bool.and_true _).symm.trans hS
  simp [decode, hop, hS]

/-- A word that selects a row is a command. -/
theorem decode_of_selects {r : OpcodeRow} {w : Byte} (hr : r ∈ opcodeMap) (h : r.selects w = true) :
    ∃ i, decode w = .instr i := by
  simp only [opcodeMap, List.mem_cons, List.not_mem_nil, or_false] at hr
  obtain rfl | rfl | rfl | rfl | rfl := hr
  · rw [eq_matchBits_of_selects rfl h]; exact ⟨.nop, rfl⟩
  · rw [eq_matchBits_of_selects rfl h]; exact ⟨.select, rfl⟩
  · rw [eq_matchBits_of_selects rfl h]; exact ⟨.encpll, rfl⟩
  · exact ⟨_, decode_of_selects_rowEncms h⟩
  · rw [eq_matchBits_of_selects rfl h]; exact ⟨.encmsS, rfl⟩

/-- Settles O3: a legal word is its command's word, which selects the command's row alone; a word that selects a row is legal. -/
theorem opcodeMapSelectsOneRow : Obligations.OpcodeMapSelectsOneRow := by
  refine ⟨rfl, fun w => ?_⟩
  cases hd : decode w with
  | instr i =>
    rw [← encode_of_decode hd]
    exact filter_selects_encode i
  | illegal why =>
    refine List.filter_eq_nil_iff.mpr fun r hr hsel => ?_
    obtain ⟨i, hi⟩ := decode_of_selects hr hsel
    cases hi.symm.trans hd

/-! ### Pseudo-commands (R78) -/

theorem encmsDiv4_instr {r : RatioArgs} (h : r.wf = true) : (Line.encmsDiv4 r).instr = some (.encms true true 0) :=
  if_pos h

theorem encmsFrac_instr {r : RatioArgs} {k : Nat} (h : r.wf = true) (hk : k < 8) :
    (Line.encmsFrac r k).instr = some (.encms false false (BitVec.ofNat 3 k)) := by
  have hwf : (Line.encmsFrac r k).wf = true := by simp [Line.wf, fits, h, hk]
  exact if_pos hwf

/-- The word of a fractional `ENCMS` without divide-by-4: its R-divider code stands at bits 6:4, above `OP` = 11. -/
theorem encode_encms_frac : ∀ k < 8, encode (.encms false false (BitVec.ofNat 3 k)) = BitVec.ofNat 8 (3 ||| (k <<< 4)) := by
  decide

/-- Settles O7: a well-formed pseudo-command names the `ENCMS` it expands to. -/
theorem pseudoCommandWords : Obligations.PseudoCommandWords :=
  ⟨fun _ h => ⟨encmsDiv4_instr h, rfl⟩, fun _ k h hk => ⟨encmsFrac_instr h hk, encode_encms_frac k hk⟩, rfl, rfl, rfl, rfl⟩

end Sys2Proof
end

section
/-! SUPPORT. The statements of 30_encoding.md, Part 2: the byte layout of an image, and the mode fields an encode packs. -/

namespace Sys2Proof.Machine

/-! ### The layout (R81) -/

/-- Two bit vectors side by side, as a number. -/
theorem toNat_append_eq_add {m n : Nat} (x : BitVec m) (y : BitVec n) : (x ++ y).toNat = x.toNat * 2 ^ n + y.toNat := by
  rw [BitVec.toNat_append, ← Nat.shiftLeft_add_eq_or_of_lt y.isLt, Nat.shiftLeft_eq]

/-- Bits k+7:k of a field, as the layout writes them. -/
theorem extractByte_eq_ofNat {n : Nat} (x : BitVec n) (k : Nat) : x.extractLsb' k 8 = BitVec.ofNat 8 (x.toNat / 2 ^ k) := by
  refine BitVec.eq_of_toNat_eq ?_
  rw [BitVec.extractLsb'_toNat, BitVec.toNat_ofNat, Nat.shiftRight_eq_div_pow]

/-- Byte 2: from bit 7 down, a zero, the R-divider code, the divide-by-4 field and P1[17:16]. -/
theorem pack_b2 (f : Fields) (rdiv : RDivCode) (dv4 : BitVec 2) :
    (pack f rdiv dv4).b2 = BitVec.ofNat 8 (16 * rdiv.toNat + 4 * dv4.toNat + f.p1.toNat / 65536) := by
  have hp1 := f.p1.isLt
  have hrdiv := rdiv.isLt
  have hdv4 := dv4.isLt
  refine BitVec.eq_of_toNat_eq ?_
  simp only [pack, toNat_append_eq_add, BitVec.extractLsb'_toNat, BitVec.toNat_ofNat, Nat.shiftRight_eq_div_pow]
  omega

/-- Byte 5: P3[19:16] above P2[19:16]. -/
theorem pack_b5 (f : Fields) (rdiv : RDivCode) (dv4 : BitVec 2) :
    (pack f rdiv dv4).b5 = BitVec.ofNat 8 (16 * (f.p3.toNat / 65536) + f.p2.toNat / 65536) := by
  have hp2 := f.p2.isLt
  have hp3 := f.p3.isLt
  refine BitVec.eq_of_toNat_eq ?_
  simp only [pack, toNat_append_eq_add, BitVec.extractLsb'_toNat, BitVec.toNat_ofNat, Nat.shiftRight_eq_div_pow]
  omega

/-- The whole image: two bytes are made of several fields, each of the others is eight bits of one field. -/
theorem pack_eq_layout (f : Fields) (rdiv : RDivCode) (dv4 : BitVec 2) :
    pack f rdiv dv4 = layout f.p1.toNat f.p2.toNat f.p3.toNat (16 * rdiv.toNat + 4 * dv4.toNat) := by
  rw [layout, ← pack_b2, ← pack_b5 f rdiv dv4]
  simp [pack, extractByte_eq_ofNat]

theorem packPll_eq_layout (f : Fields) : packPll f = layout f.p1.toNat f.p2.toNat f.p3.toNat 0 :=
  pack_eq_layout f 0 0

/-- Settles O21: byte by byte, with bytes 2 and 5 as sums of their fields. -/
theorem imageLayout : Obligations.ImageLayout := ⟨pack_eq_layout, packPll_eq_layout⟩

/-! ### The two forms (R79, R83) -/

/-- The two bits of P1 in byte 2 are all that the PLL form keeps of it. -/
theorem packPll_b2 (f : Fields) (rdiv : RDivCode) (dv4 : BitVec 2) : (packPll f).b2 = (pack f rdiv dv4).b2 &&& 0x83#8 := by
  refine BitVec.eq_of_getLsbD_eq fun i hi => ?_
  simp only [packPll, pack, BitVec.getLsbD_and, BitVec.getLsbD_append]
  interval_cases i <;> simp

/-- Settles O22: only byte 2 of `pack` reads the mode fields, and the mask 0x83 clears them. -/
theorem formsDifferInModeBitsOnly : Obligations.FormsDifferInModeBitsOnly := by
  refine fun f rdiv dv4 => ⟨rfl, packPll_b2 f rdiv dv4, ?_⟩
  rw [packPll_b2 f rdiv dv4, BitVec.and_assoc]
  exact BitVec.and_zero

/-- Settles O23: the PLL form is a packed image too. -/
theorem byte2Bit7IsZero : Obligations.Byte2Bit7IsZero :=
  fun f rdiv dv4 => ⟨pack_bit7 f rdiv dv4, pack_bit7 f 0 0⟩

/-! ### The mode fields an encode packs (R84, R85) -/

/-- The operand contract is the range 4 ≤ a ≤ 2051, because `temp` is below 128. -/
theorem ratioOK_iff_inRange (r : Ratio) : ratioOK r = true ↔ RatioInRange r := by
  rw [ratioOK_iff]
  refine and_congr_right fun _ => and_congr_right fun hb => ?_
  have htemp := ratioTemp_lt r hb
  unfold ratioP1
  omega

/-- A MultiSynth encode whose ratio, if it reads one, is in range writes an image with the mode operands in it. -/
theorem encodeMultiSynth_mode (m : ModeFields) (s : State) (h : m.int = true ∨ RatioInRange (ratioOperands s)) :
    (unpack (encodeMultiSynth m s).img).dv4 = divBy4Field m.d4 ∧ (unpack (encodeMultiSynth m s).img).rdiv = m.rdiv := by
  rw [← ratioOK_iff_inRange] at h
  obtain ⟨-, heq⟩ | ⟨-, -, heq⟩ | ⟨hint, hbad, -⟩ := encodeMultiSynth_cases m s
  · simp [heq]
  · simp [heq]
  · simp [hint, hbad] at h

/-- A PLL encode whose ratio is in range writes an image with zeros in both mode fields. -/
theorem encodePll_mode (s : State) (h : RatioInRange (ratioOperands s)) :
    (unpack (encodePll s).img).dv4 = 0 ∧ (unpack (encodePll s).img).rdiv = 0 := by
  rw [← ratioOK_iff_inRange] at h
  obtain ⟨-, heq⟩ | ⟨hbad, -⟩ := encodePll_cases s
  · simp [heq, packPll]
  · simp [hbad] at h

/-- Settles O24: both encodes complete, and the reference decoder reads back the mode fields they packed. -/
theorem modeOperandsArePacked : Obligations.ModeOperandsArePacked :=
  ⟨fun int d4 rdiv s h => ⟨_, rfl, encodeMultiSynth_mode ⟨int, d4, rdiv⟩ s h⟩,
    fun s h => ⟨_, rfl, encodePll_mode s h⟩⟩

end Sys2Proof.Machine
end

section
/-! SUPPORT. The statements of 40_encoder.md: the fields of a ratio as numbers, the images they pack to, and the whole next
state of each encode on each of its paths. -/

namespace Sys2Proof.Machine

/-! ### The fields of a ratio in range, and the image they pack to (R102) -/

/-- The ports hold a denominator that fits P3. -/
theorem ratioOperands_c_lt (s : State) : (ratioOperands s).c < 2 ^ 20 := s.ports.cIn.isLt

theorem fractionalFields_p3_toNat {r : Ratio} (hc : r.c < 2 ^ 20) : (fractionalFields r).p3.toNat = r.c :=
  Nat.mod_eq_of_lt hc

section
variable {r : Ratio} (h : RatioInRange r)
include h

/-- P1 fits its 18 bits: with 4 ≤ a ≤ 2051 and `temp` below 128 it is below 128 × 2048. -/
theorem fractionalFields_p1_toNat : (fractionalFields r).p1.toNat = 128 * r.a + 128 * r.b / r.c - 512 := by
  obtain ⟨-, hb, ha, ha'⟩ := h
  have htemp := ratioTemp_lt r hb
  change (BitVec.ofInt 18 (ratioP1 r)).toNat = 128 * r.a + ratioTemp r - 512
  rw [ratioP1_eq r ha, ofInt_natCast_toNat]
  omega

/-- P2 is a remainder by c, so it fits wherever c does. -/
theorem fractionalFields_p2_toNat (hc : r.c < 2 ^ 20) :
    (fractionalFields r).p2.toNat = 128 * r.b - r.c * (128 * r.b / r.c) := by
  have hmod := Nat.mod_lt (128 * r.b) h.1
  rw [← Nat.mod_eq_sub, fractionalFields, ratioP2_eq, ofInt_natCast_toNat _ _ (hmod.trans hc)]

theorem pack_fractionalFields (hc : r.c < 2 ^ 20) (rdiv : RDivCode) (dv4 : BitVec 2) :
    pack (fractionalFields r) rdiv dv4 = fractionalLayout r (16 * rdiv.toNat + 4 * dv4.toNat) := by
  rw [pack_eq_layout, fractionalFields_p1_toNat h, fractionalFields_p2_toNat h hc, fractionalFields_p3_toNat hc,
    fractionalLayout]

theorem packPll_fractionalFields (hc : r.c < 2 ^ 20) : packPll (fractionalFields r) = fractionalLayout r 0 :=
  pack_fractionalFields h hc 0 0

end

/-! ### The mode fields and the override's image (R103, R106) -/

/-- The mode operands as `pack` places them in byte 2. -/
theorem modeBits_eq (d4 : Bool) (rdiv : RDivCode) : 16 * rdiv.toNat + 4 * (divBy4Field d4).toNat = modeBits d4 rdiv := by
  cases d4 <;> rfl

theorem pack_overrideFields (d4 : Bool) (rdiv : RDivCode) :
    pack overrideFields rdiv (divBy4Field d4) = layout 0 0 1 (modeBits d4 rdiv) := by
  rw [pack_eq_layout, modeBits_eq]
  rfl

/-! ### Completing an encode and recording an error, as masks on `STATUS` -/

theorem writeImage_pll_eq (im : Image) (s : State) :
    writeImage .pll im s =
      { s with img := im, status := (s.status ||| 0x02#8) &&& 0xFB#8, index := s.index + 1 } := rfl

theorem writeImage_multiSynth_eq (im : Image) (s : State) :
    writeImage .multiSynth im s = { s with img := im, status := s.status ||| 0x06#8, index := s.index + 1 } := by
  rw [← statusAfterEncode_multiSynth_eq]
  rfl

theorem raiseError_eq_recorded (e : ErrorCode) (s : State) : raiseError e s = recorded e.code s := by
  rw [recorded, ← statusAfterError_eq]
  rfl

/-! ### `ENCPLL` (R110) -/

theorem encodePll_of_inRange {s : State} (h : RatioInRange (ratioOperands s)) :
    encodePll s = writeImage .pll (fractionalLayout (ratioOperands s) 0) s := by
  rw [encodePll, if_pos ((ratioOK_iff_inRange _).mpr h), packPll_fractionalFields h (ratioOperands_c_lt s)]

theorem encodePll_of_not_inRange {s : State} (h : ¬ RatioInRange (ratioOperands s)) : encodePll s = recorded 5 s := by
  rw [encodePll, if_neg (mt (ratioOK_iff_inRange _).mp h)]
  exact raiseError_eq_recorded .rng s

/-- `OP` = 10 is `ENCPLL` only with bits 7:2 zero (R74). -/
theorem decode_eq_none_of_encpllReserved {w : Byte} (hop : w.toNat % 4 = 2) (hw : w ≠ 0x02#8) :
    (decode w).toOption = none := by
  have hhigh : w.toNat / 4 ≠ 0 := by bv_omega
  simp [decode_toOption, hop, hhigh]

/-- Settles O26: `ENCPLL` takes the fractional path, whose operand contract is the range. -/
theorem encpllEncodesOrRaises : Obligations.EncpllEncodesOrRaises := by
  refine ⟨rfl, fun w => decode_eq_none_of_encpllReserved, fun s => ⟨fun h => ?_, fun h => ?_⟩⟩
  · exact congrArg Host.Outcome.next ((encodePll_of_inRange h).trans (writeImage_pll_eq _ s))
  · exact congrArg Host.Outcome.next (encodePll_of_not_inRange h)

/-! ### The MultiSynth encode, path by path (R103, R120) -/

theorem encodeMultiSynth_override (d4 : Bool) (rdiv : RDivCode) (s : State) :
    encodeMultiSynth ⟨true, d4, rdiv⟩ s = writeImage .multiSynth (layout 0 0 1 (modeBits d4 rdiv)) s := by
  rw [← pack_overrideFields]
  rfl

theorem encodeMultiSynth_of_inRange {s : State} (h : RatioInRange (ratioOperands s)) (d4 : Bool) (rdiv : RDivCode) :
    encodeMultiSynth ⟨false, d4, rdiv⟩ s =
      writeImage .multiSynth (fractionalLayout (ratioOperands s) (modeBits d4 rdiv)) s := by
  have hok := (ratioOK_iff_inRange _).mpr h
  rw [← modeBits_eq, ← pack_fractionalFields h (ratioOperands_c_lt s)]
  simp [encodeMultiSynth, multiSynthFields, hok]

theorem encodeMultiSynth_of_not_inRange {s : State} (h : ¬ RatioInRange (ratioOperands s)) (d4 : Bool) (rdiv : RDivCode) :
    encodeMultiSynth ⟨false, d4, rdiv⟩ s = recorded 5 s := by
  have hbad := mt (ratioOK_iff_inRange _).mp h
  have hraise : encodeMultiSynth ⟨false, d4, rdiv⟩ s = raiseError .rng s := by
    simp [encodeMultiSynth, multiSynthFields, hbad]
  exact hraise.trans (raiseError_eq_recorded .rng s)

/-- The override's fields decode to the ratio 4 + 0/1. -/
theorem decodeRatio_overrideFields : decodeRatio overrideFields = ⟨4, 0, 1⟩ := rfl

/-- Settles O29: with int = 1 the fields are the override's, whatever the ratio ports hold. -/
theorem integerOverride : Obligations.IntegerOverride := by
  refine fun d4 rdiv s => ⟨encodeMultiSynth ⟨true, d4, rdiv⟩ s, rfl, ?_, ?_⟩
  · rw [encodeMultiSynth_override, writeImage_multiSynth_eq]
  · rw [encodeMultiSynth_override, writeImage_img, ← pack_overrideFields, unpack_pack, decodeRatio_overrideFields]

/-! ### `ENCMS` (R120) -/

/-- The word of `ENCMS` as a sum of its fields. -/
theorem encode_encms_eq_ofNat (int d4 : Bool) (rdiv : RDivCode) :
    encode (.encms int d4 rdiv) =
      BitVec.ofNat 8 (16 * rdiv.toNat + (if d4 then 8 else 0) + (if int then 4 else 0) + 3) := by
  have hrdiv := rdiv.isLt
  refine BitVec.eq_of_toNat_eq ?_
  simp only [encode, toNat_append_eq_add, BitVec.toNat_ofBool, BitVec.toNat_ofNat]
  cases int <;> cases d4 <;> simp <;> omega

/-- Settles O30: the override, the fractional path and the error, one after another. -/
theorem encmsEncodesOrRaises : Obligations.EncmsEncodesOrRaises := by
  refine ⟨encode_encms_eq_ofNat, fun int d4 rdiv s => congrArg Host.Outcome.next ?_⟩
  cases int with
  | true => exact (encodeMultiSynth_override d4 rdiv s).trans (writeImage_multiSynth_eq _ s)
  | false =>
    rw [if_neg Bool.false_ne_true]
    split_ifs with h
    · exact (encodeMultiSynth_of_inRange h d4 rdiv).trans (writeImage_multiSynth_eq _ s)
    · exact encodeMultiSynth_of_not_inRange h d4 rdiv

/-! ### `ENCMS.S` (R122) -/

/-- With a latched plan `ENCMS.S` is `ENCMS` on the latched mode fields. -/
theorem exec_encmsS_of_selv {s : State} (h : statusSelv s.status = true) :
    exec .encmsS s = exec (.encms s.sel.int s.sel.d4 s.sel.rdiv) s := if_pos h

/-- Without one it records `E_NOSEL`, before the ratio is looked at (60_exceptions.md R187). -/
theorem exec_encmsS_of_not_selv {s : State} (h : statusSelv s.status = false) :
    exec .encmsS s = .next (recorded 6 s) :=
  (if_neg (ne_true_of_eq_false h)).trans (congrArg Host.Outcome.next (raiseError_eq_recorded .nosel s))

/-- Settles O35: the two values of `SELV` decide which. -/
theorem encmsSIsEncmsOnLatches : Obligations.EncmsSIsEncmsOnLatches :=
  ⟨rfl, fun _ => exec_encmsS_of_selv, fun _ => exec_encmsS_of_not_selv⟩

end Sys2Proof.Machine
end

section
/-! SUPPORT. The statements of 41_selector.md, Part 1: the latches `SELECT` writes, as the sub-functions of the clamped frequency,
and each sub-function band by band. -/

namespace Sys2Proof.Machine

/-! ### `NOP` (R150) -/

theorem exec_nop (s : State) : exec .nop s = .next (advance s) := rfl

/-- Settles O9: `NOP` is `advance` and nothing else. -/
theorem nopOnlyAdvances : Obligations.NopOnlyAdvances := ⟨rfl, exec_nop⟩

/-! ### `SELECT` latches the plan of `FREQ_IN` (R140, R141, R142) -/

/-- `SELECT` completes from every state. -/
theorem exec_select (s : State) : exec .select s = .next (writeLatches (plan Config.cfg (freqOperand s)) s) := rfl

theorem freqOperand_congr {s s' : State} (h : s.ports.freqIn = s'.ports.freqIn) : freqOperand s = freqOperand s' :=
  congrArg BitVec.toNat h

/-- Settles O15: the latched plan reads `FREQ_IN` and nothing else of the state. -/
theorem selectDependsOnFreqAlone : Obligations.SelectDependsOnFreqAlone := by
  refine fun s s' h => ⟨_, _, exec_select s, exec_select s', ?_⟩
  rw [writeLatches_sel, writeLatches_sel, freqOperand_congr h]

/-- Settles O10: `SEL_FOUT` holds the clamped frequency whole, so what the sub-functions give of the latched value is what the
plan latched. -/
theorem selectClampsRequest : Obligations.SelectClampsRequest := by
  refine fun s => ⟨_, exec_select s, ?_⟩
  have hwf := Config.chip.wf
  rw [writeLatches_sel, plan_fout_toNat _ hwf]
  exact ⟨rfl, statusAfterSelect_eq _, plan_rdiv _ _, plan_fwork_toNat _ hwf _, plan_fpll_toNat _ hwf _, plan_d4 _ _⟩

/-! ### The R-divider, band by band (R143, R144) -/

theorem rdivSelect_bands (c : Cfg) (f : Nat) :
    if 200000 ≤ f ∧ f < 1000000 then (rdivSelect c f).rdiv = 0b010#3 ∧ (rdivSelect c f).work = 4 * f
    else if 50000 ≤ f ∧ f < 200000 then (rdivSelect c f).rdiv = 0b100#3 ∧ (rdivSelect c f).work = 16 * f
    else if c.minOut ≤ f ∧ f < 50000 then (rdivSelect c f).rdiv = 0b111#3 ∧ (rdivSelect c f).work = 128 * f
    else (rdivSelect c f).rdiv = 0b000#3 ∧ (rdivSelect c f).work = f := by
  unfold rdivSelect
  split_ifs <;> exact ⟨rfl, rfl⟩

/-- Settles O11: the working frequency fits its latch, so the latches hold what the multiplexer gives of the clamped frequency. -/
theorem selectChoosesRDivider : Obligations.SelectChoosesRDivider := by
  refine fun s => ⟨_, exec_select s, ?_⟩
  have hwf := Config.chip.wf
  rw [writeLatches_sel, plan_fout_toNat _ hwf, plan_fwork_toNat _ hwf, plan_rdiv]
  exact ⟨rdivSelect_bands _ _, rdivSelect_work _ _⟩

/-! ### The PLL frequency, band by band (R146) -/

theorem pllSelect_bands (c : Cfg) (f : Nat) :
    if c.b8Lo ≤ f ∧ f < c.b8Hi then (pllSelect c f).pll = 8 * f ∧ (pllSelect c f).d4 = false
    else if c.b6Lo ≤ f ∧ f < c.b6Hi then (pllSelect c f).pll = 6 * f ∧ (pllSelect c f).d4 = false
    else if c.b4Lo ≤ f ∧ f < c.b4Hi then (pllSelect c f).pll = 4 * f ∧ (pllSelect c f).d4 = true
    else if f < Config.veryLowEdge then (pllSelect c f).pll = c.pllMin ∧ (pllSelect c f).d4 = false
    else (pllSelect c f).pll = c.pllMax ∧ (pllSelect c f).d4 = false := by
  unfold pllSelect
  split_ifs <;> exact ⟨rfl, rfl⟩

/-- Settles O12: the PLL frequency fits its latch (`cfg_fit`), and a legal plan keeps it in its range (`cfg_pll_range`). -/
theorem selectChoosesPll : Obligations.SelectChoosesPll := by
  refine fun s => ⟨_, exec_select s, ?_, (plan_legal _ Config.chip.wf _).fpll⟩
  have hwf := Config.chip.wf
  rw [writeLatches_sel, plan_fout_toNat _ hwf, plan_fpll_toNat _ hwf, plan_d4]
  exact pllSelect_bands _ _

/-! ### DividerMode (R147) -/

/-- Settles O13: a legal plan has it, for the working frequency as latched. -/
theorem selectChoosesDividerMode : Obligations.SelectChoosesDividerMode :=
  fun s => ⟨_, exec_select s, (plan_legal _ Config.chip.wf _).int⟩

end Sys2Proof.Machine
end

section
/-! SUPPORT. The statements of 60_exceptions.md: when each error is raised, that recording it is all that happens, and that a
command which raises none keeps the error bits. -/

namespace Sys2Proof.Machine

/-! ### `E_NOSEL` (R185) -/

/-- Settles O34: `SELV` is checked before anything else. -/
theorem encmsSNeedsSelect : Obligations.EncmsSNeedsSelect := fun _ => exec_encmsS_of_not_selv

/-! ### `E_ILL` (R183) -/

/-- The decoder's table (R74) read by its empty cells. -/
theorem decode_toOption_eq_none_iff (w : Byte) :
    (decode w).toOption = none ↔
      (w.toNat % 4 ≠ 3 ∧ w.toNat / 4 ≠ 0) ∨ (w.toNat % 4 = 3 ∧ w.toNat / 128 = 1 ∧ w.toNat / 4 % 32 ≠ 0) := by
  have hw := w.isLt
  rw [decode_toOption]
  split_ifs <;> simp <;> omega

theorem step_of_toOption_eq_none {s : State} (hrst : s.ports.rst = false) (h : (decode s.ports.cmd).toOption = none) :
    step s = .next (recorded 4 s) := by
  obtain ⟨hr, -⟩ | ⟨-, i, hd, -⟩ | ⟨-, why, -, hstep⟩ := step_cases s
  · cases hr.symm.trans hrst
  · cases (congrArg Decoded.toOption hd).symm.trans h
  · exact hstep.trans (congrArg Host.Outcome.next (raiseError_eq_recorded .ill s))

/-- Settles O6: the empty cells of the decoder's table, their count, and the step's answer to them. -/
theorem illegalWordRaisesIll : Obligations.IllegalWordRaisesIll :=
  ⟨decode_toOption_eq_none_iff, illegalWords_length, fun _ => step_of_toOption_eq_none⟩

/-! ### Completing a command keeps the error bits, 7:3 of `STATUS` (R181) -/

theorem statusAfterSelect_and_errorBits (st : Byte) : statusAfterSelect st &&& 0xF8#8 = st &&& 0xF8#8 := by
  rw [statusAfterSelect_eq, BitVec.and_or_distrib_right]
  exact BitVec.or_zero

theorem statusAfterEncode_and_errorBits (k : ImageKind) (st : Byte) :
    statusAfterEncode k st &&& 0xF8#8 = st &&& 0xF8#8 := by
  refine BitVec.eq_of_getLsbD_eq fun j hj => ?_
  rw [BitVec.getLsbD_and, BitVec.getLsbD_and, statusAfterEncode_getLsbD]
  interval_cases j <;> simp

theorem encodePll_keeps_errorBits {s : State} (h : RatioInRange (ratioOperands s)) :
    (encodePll s).status &&& 0xF8#8 = s.status &&& 0xF8#8 := by
  rw [encodePll_of_inRange h, writeImage_status, statusAfterEncode_and_errorBits]

theorem encodeMultiSynth_keeps_errorBits {m : ModeFields} {s : State} (h : m.int = false → RatioInRange (ratioOperands s)) :
    (encodeMultiSynth m s).status &&& 0xF8#8 = s.status &&& 0xF8#8 := by
  obtain ⟨int, d4, rdiv⟩ := m
  cases int with
  | true => rw [encodeMultiSynth_override, writeImage_status, statusAfterEncode_and_errorBits]
  | false => rw [encodeMultiSynth_of_inRange (h rfl), writeImage_status, statusAfterEncode_and_errorBits]

/-! ### The checks of a decoded command (R184, R185, R187) -/

theorem encodeMultiSynth_of_fractional {m : ModeFields} {s : State} (hint : m.int = false)
    (h : ¬ RatioInRange (ratioOperands s)) : encodeMultiSynth m s = recorded 5 s := by
  obtain ⟨int, d4, rdiv⟩ := m
  cases hint
  exact encodeMultiSynth_of_not_inRange h d4 rdiv

section
variable {s : State} {i : Instr} (hsel : i = .encmsS → statusSelv s.status = true)
include hsel

/-- On the fractional path a ratio out of range is recorded as `E_RNG`, by the PLL encode and by the MultiSynth one. -/
theorem exec_of_not_inRange (hfrac : takesFractionalPath i s = true) (h : ¬ RatioInRange (ratioOperands s)) :
    exec i s = .next (recorded 5 s) := by
  cases i with
  | nop => cases hfrac
  | select => cases hfrac
  | encpll => exact congrArg Host.Outcome.next (encodePll_of_not_inRange h)
  | encms int d4 rdiv =>
    exact congrArg Host.Outcome.next (encodeMultiSynth_of_fractional (Bool.eq_false_of_not_eq_true' hfrac) h)
  | encmsS =>
    refine (exec_encmsS_of_selv (hsel rfl)).trans ?_
    exact congrArg Host.Outcome.next (encodeMultiSynth_of_fractional (Bool.eq_false_of_not_eq_true' hfrac) h)

/-- A command that passes its checks completes and leaves the error bits alone. -/
theorem exec_keeps_errorBits (h : takesFractionalPath i s = true → RatioInRange (ratioOperands s)) :
    ∃ t, exec i s = .next t ∧ t.status &&& 0xF8#8 = s.status &&& 0xF8#8 := by
  cases i with
  | nop => exact ⟨_, exec_nop s, rfl⟩
  | select => exact ⟨_, exec_select s, statusAfterSelect_and_errorBits s.status⟩
  | encpll => exact ⟨_, rfl, encodePll_keeps_errorBits (h rfl)⟩
  | encms int d4 rdiv => exact ⟨_, rfl, encodeMultiSynth_keeps_errorBits fun hint => h (congrArg not hint)⟩
  | encmsS =>
    exact ⟨_, exec_encmsS_of_selv (hsel rfl), encodeMultiSynth_keeps_errorBits fun hint => h (congrArg not hint)⟩

end

/-! ### `E_RNG` (R184) -/

/-- The operands R184 names are those out of the range of R104. -/
theorem not_ratioInRange_iff (r : Ratio) : ¬ RatioInRange r ↔ r.c = 0 ∨ r.b ≥ r.c ∨ r.a ≤ 3 ∨ r.a ≥ 2052 := by
  unfold RatioInRange
  omega

theorem getLsbD_five_of_errorBits_eq {st st' : Byte} (h : st &&& 0xF8#8 = st' &&& 0xF8#8) :
    st.getLsbD 5 = st'.getLsbD 5 := by
  simpa using congrArg (BitVec.getLsbD · 5) h

/-- The `E_RNG` bit stays where no ratio out of range is looked at: the command passes its checks, or fails `SELV`'s first. -/
theorem exec_keeps_rng {s : State} {i : Instr}
    (h : takesFractionalPath i s = true → (i = .encmsS → statusSelv s.status = true) → RatioInRange (ratioOperands s)) :
    ∃ t, exec i s = .next t ∧ t.status.getLsbD 5 = s.status.getLsbD 5 := by
  by_cases hsel : i = .encmsS → statusSelv s.status = true
  · obtain ⟨t, hexec, hbits⟩ := exec_keeps_errorBits hsel fun hfrac => h hfrac hsel
    exact ⟨t, hexec, getLsbD_five_of_errorBits_eq hbits⟩
  · obtain ⟨rfl, hselv⟩ := Classical.not_imp.mp hsel
    refine ⟨raiseError .nosel s, ?_, statusError_raiseError_of_ne s (e' := .rng) (by decide)⟩
    rw [raiseError_eq_recorded]
    exact exec_encmsS_of_not_selv (eq_false_of_ne_true hselv)

/-- Settles O38: the contract fails exactly on R184's operands, and only the fractional path looks at it. -/
theorem outOfRangeRatioRaisesRng : Obligations.OutOfRangeRatioRaisesRng := by
  refine ⟨fun s i hfrac hsel => ?_, fun s i hoff => exec_keeps_rng fun hfrac hsel => ?_⟩
  · rw [← not_ratioInRange_iff, not_not]
    exact ⟨exec_of_not_inRange hsel hfrac, fun hin => exec_keeps_rng fun _ _ => hin⟩
  · obtain hpath | ⟨rfl, hselv⟩ := hoff
    · cases hpath.symm.trans hfrac
    · cases hselv.symm.trans (hsel rfl)

/-! ### The order of the checks (R187) -/

theorem step_of_decode {s : State} {i : Instr} (hrst : s.ports.rst = false) (h : decode s.ports.cmd = .instr i) :
    step s = exec i s := by
  have hreq : resetRequested s = false := hrst
  have hfetch : decode (fetch s) = .instr i := h
  simp [step, hreq, hfetch]

theorem commandError_of_illegal {s : State} {why : Illegal} (h : decode s.ports.cmd = .illegal why) :
    commandError s = some 4 := by
  rw [commandError, h]

theorem commandError_of_instr {s : State} {i : Instr} (h : decode s.ports.cmd = .instr i) :
    commandError s =
      if i = .encmsS ∧ s.status.getLsbD 0 = false then some 6
      else if takesFractionalPath i s = true ∧ ¬ RatioInRange (ratioOperands s) then some 5
      else none := by
  rw [commandError, h]

/-- A step records the error that the order of checks gives. -/
theorem step_of_commandError_eq_some {s : State} {code : Nat} (hrst : s.ports.rst = false)
    (h : commandError s = some code) : step s = .next (recorded code s) := by
  cases hd : decode s.ports.cmd with
  | illegal why =>
    cases (commandError_of_illegal hd).symm.trans h
    exact step_of_toOption_eq_none hrst (congrArg Decoded.toOption hd)
  | instr i =>
    rw [step_of_decode hrst hd]
    rw [commandError_of_instr hd] at h
    split_ifs at h with hnosel hrng <;> cases h
    · obtain ⟨rfl, hselv⟩ := hnosel
      exact exec_encmsS_of_not_selv hselv
    · exact exec_of_not_inRange (fun hi => eq_true_of_ne_false fun hselv => hnosel ⟨hi, hselv⟩) hrng.1 hrng.2

/-- When the order of checks gives none, the word is a command that passes all of them. -/
theorem step_of_commandError_eq_none {s : State} (hrst : s.ports.rst = false) (h : commandError s = none) :
    ∃ t, step s = .next t ∧ t.status &&& 0xF8#8 = s.status &&& 0xF8#8 := by
  cases hd : decode s.ports.cmd with
  | illegal why => cases (commandError_of_illegal hd).symm.trans h
  | instr i =>
    rw [step_of_decode hrst hd]
    rw [commandError_of_instr hd] at h
    split_ifs at h with hnosel hrng
    exact exec_keeps_errorBits (fun hi => eq_true_of_ne_false fun hselv => hnosel ⟨hi, hselv⟩)
      fun hfrac => by_contra fun hbad => hrng ⟨hfrac, hbad⟩

/-- Settles O39: the step makes its checks in the order of `commandError`. -/
theorem errorsByPriority : Obligations.ErrorsByPriority :=
  fun _ hrst => ⟨fun _ => step_of_commandError_eq_some hrst, step_of_commandError_eq_none hrst⟩

end Sys2Proof.Machine
end

section
/-! SUPPORT. The statement of 70_reset_and_hazards.md that every step completes (R241). -/

namespace Sys2Proof.Machine

/-- Settles O43: the reset event and an illegal word answer a next state themselves; a decoded word does because every
command completes with one of its four effects. -/
theorem everyStepCompletes : Obligations.EveryStepCompletes := by
  intro s
  obtain ⟨-, hreset⟩ | ⟨-, i, -, hexec⟩ | ⟨-, _, -, hillegal⟩ := step_cases s
  · exact ⟨_, hreset⟩
  · obtain ⟨t, hnext, -⟩ := exec_commandEffect i s
    exact ⟨t, hexec.trans hnext⟩
  · exact ⟨_, hillegal⟩

end Sys2Proof.Machine
end

section
/-! SUPPORT. Decode and encode agree (30_encoding.md, Part 1), so what the host issues is what the block runs; and an assembler
line drives its ports and issues its command (R77). -/

namespace Sys2Proof

/-- The 32 words of `ENCMS` carry their fields (R70). -/
theorem decode_encode_encms : ∀ (int d4 : Bool) (rdiv : RDivCode),
    decode (encode (.encms int d4 rdiv)) = .instr (.encms int d4 rdiv) := by
  decide

theorem decode_encode (i : Instr) : decode (encode i) = .instr i := by
  cases i with
  | nop => rfl
  | select => rfl
  | encpll => rfl
  | encms int d4 rdiv => exact decode_encode_encms int d4 rdiv
  | encmsS => rfl

/-- Settles O5: one direction command by command, the other because the decoder drops no bit. -/
theorem decodeEncodeAgree : Obligations.DecodeEncodeAgree := ⟨decode_encode, fun _ _ => encode_of_decode⟩

/-- Settles O4: eight words, each evaluated. -/
theorem knownWordsDecode : Obligations.KnownWordsDecode := by
  unfold Obligations.KnownWordsDecode
  decide

end Sys2Proof

namespace Sys2Proof.Machine

/-- Settles O1: without `RST` the step has nothing to do but run the decoded command. -/
theorem stepRunsDecodedCommand : Obligations.StepRunsDecodedCommand := fun _ _ => step_of_decode

/-- Issuing the word of a command runs that command, with the word on `CMD`. -/
theorem hostAct_issue_encode (i : Instr) (s : State) :
    hostAct (.issue (encode i)) s = exec i (driveCommand (encode i) s) :=
  step_of_decode rfl (decode_encode i)

/-! ### The ports of an assembler line (R77) -/

/-- What a port holds after a line that gives it a value, or none. -/
def drivenWord {w : Nat} (given : Option Nat) (before : BitVec w) : BitVec w :=
  (given.map (BitVec.ofNat w)).getD before

/-- A port holds a value that fits it as it was written. -/
theorem portDriven_drivenWord {w : Nat} {given : Option Nat} (before : BitVec w) (h : fits w given = true) :
    PortDriven given before (drivenWord given before) := by
  cases given with
  | none => exact ⟨nofun, fun _ => rfl⟩
  | some v =>
    refine ⟨fun v' hv' => ?_, nofun⟩
    cases hv'
    exact Nat.mod_eq_of_lt (of_decide_eq_true h)

theorem driveLine_ports (l : Line) (s : State) :
    (driveLine l s).ports = { s.ports with
      freqIn := drivenWord (lineFreq l) s.ports.freqIn
      aIn := drivenWord (lineRatio l).a s.ports.aIn
      bIn := drivenWord (lineRatio l).b s.ports.bIn
      cIn := drivenWord (lineRatio l).c s.ports.cIn } := by
  cases l <;> rfl

/-- Driving a line's operands is driving ports. -/
theorem driveLine_eq_withPorts (l : Line) (s : State) : driveLine l s = { s with ports := (driveLine l s).ports } := by
  cases l <;> rfl

theorem fits_of_ratioArgs_wf {r : RatioArgs} (h : r.wf = true) :
    fits 32 r.a = true ∧ fits 20 r.b = true ∧ fits 20 r.c = true := by
  simpa [RatioArgs.wf, and_assoc] using h

theorem lineRatio_wf {l : Line} (h : l.wf = true) : (lineRatio l).wf = true := by
  cases l with
  | nop => rfl
  | select f => rfl
  | encpll r => exact h
  | encms r int d4 rdiv =>
    simp only [Line.wf, Bool.and_eq_true] at h
    obtain ⟨⟨⟨hr, -⟩, -⟩, -⟩ := h
    exact hr
  | encmsS r => exact h
  | encmsDiv4 r => exact h
  | encmsFrac r rdiv =>
    simp only [Line.wf, Bool.and_eq_true] at h
    exact h.1

/-- `SELECT` alone gives `FREQ_IN` a value. -/
theorem lineFreq_fits {l : Line} (h : l.wf = true) : fits 32 (lineFreq l) = true := by
  cases l with
  | select f => exact h
  | nop | encpll r | encms r int d4 rdiv | encmsS r | encmsDiv4 r | encmsFrac r rdiv => rfl

theorem wf_of_instr_eq_some {l : Line} {i : Instr} (h : l.instr = some i) : l.wf = true := by
  by_contra hwf
  rw [Line.instr, if_neg hwf] at h
  cases h

theorem runLine_of_instr {l : Line} {i : Instr} (s : State) (h : l.instr = some i) :
    runLine l s = some (exec i (driveCommand (encode i) (driveLine l s))) := by
  rw [runLine, h, Option.map_some, hostAct_issue_encode]

/-- Settles O8: the line's values fit their ports because it is well formed, and the word issued decodes to its command. -/
theorem lineIsOneTransaction : Obligations.LineIsOneTransaction := by
  intro l i s h
  have hwf := wf_of_instr_eq_some h
  obtain ⟨ha, hb, hc⟩ := fits_of_ratioArgs_wf (lineRatio_wf hwf)
  refine ⟨runLine_of_instr s h, ?_, ?_, ?_, ?_, driveLine_cmd l s, driveLine_rst l s, driveLine_eq_withPorts l s, rfl⟩ <;>
    rw [driveLine_ports]
  · exact portDriven_drivenWord _ (lineFreq_fits hwf)
  · exact portDriven_drivenWord _ ha
  · exact portDriven_drivenWord _ hb
  · exact portDriven_drivenWord _ hc

end Sys2Proof.Machine
end

section
/-! SUPPORT. The arithmetic of the fractional path (40_encoder.md, Parts 1 and 2): its fields hold the ratio without loss, as a
fraction and for the reference decoder. -/

namespace Sys2Proof.Machine

section
variable {r : Ratio} (h : RatioInRange r) (hc : r.c < 2 ^ 20)
include h

/-- P1 + 512 is 128 × a and `temp`. -/
theorem fractionalFields_p1_add : (fractionalFields r).p1.toNat + 512 = 128 * r.a + ratioTemp r := by
  have hp1 := fractionalFields_p1_toNat h
  obtain ⟨-, -, ha, -⟩ := h
  rw [hp1]
  exact Nat.sub_add_cancel (by omega : 512 ≤ 128 * r.a + ratioTemp r)

include hc

theorem fractionalFields_p2_eq_mod : (fractionalFields r).p2.toNat = 128 * r.b % r.c := by
  rw [fractionalFields_p2_toNat h hc, Nat.mod_eq_sub]

/-- P2 is what `temp` leaves of 128 × b. -/
theorem fractionalFields_p2_add : (fractionalFields r).p2.toNat + r.c * ratioTemp r = 128 * r.b := by
  rw [fractionalFields_p2_eq_mod h hc]
  exact Nat.mod_add_div _ _

theorem fractionalFields_p2_lt_p3 : (fractionalFields r).p2.toNat < (fractionalFields r).p3.toNat := by
  rw [fractionalFields_p2_eq_mod h hc, fractionalFields_p3_toNat hc]
  exact Nat.mod_lt _ h.1

/-- `temp` is below 128, so it is the remainder of P1 + 512 by 128, and the quotient is a; with `temp` known P2 gives b. -/
theorem decodeRatio_fractionalFields : decodeRatio (fractionalFields r) = r := by
  have htemp := ratioTemp_lt r h.2.1
  have hdiv : (128 * r.a + ratioTemp r) / 128 = r.a := by omega
  have hmod : (128 * r.a + ratioTemp r) % 128 = ratioTemp r := by omega
  rw [decodeRatio, fractionalFields_p1_add h, hdiv, hmod, fractionalFields_p3_toNat hc, fractionalFields_p2_add h hc,
    Nat.mul_div_cancel_left _ (by decide)]

/-- `temp` + P2 / P3 is 128 × b / c. -/
theorem fields_represent_ratio :
    (((fractionalFields r).p1.toNat : ℚ) + 512 +
        ((fractionalFields r).p2.toNat : ℚ) / ((fractionalFields r).p3.toNat : ℚ)) / 128 =
      (r.a : ℚ) + (r.b : ℚ) / (r.c : ℚ) := by
  have hpos := h.1
  have hne : (r.c : ℚ) ≠ 0 := by exact_mod_cast Nat.ne_of_gt hpos
  have hp1 : ((fractionalFields r).p1.toNat : ℚ) + 512 = 128 * r.a + ratioTemp r := by
    exact_mod_cast fractionalFields_p1_add h
  have hp2 : ((fractionalFields r).p2.toNat : ℚ) = 128 * r.b - r.c * ratioTemp r :=
    eq_sub_of_add_eq (by exact_mod_cast fractionalFields_p2_add h hc)
  rw [hp1, hp2, fractionalFields_p3_toNat hc]
  field_simp
  ring

/-- The three fields hold P1, P2 and P3 whole. -/
theorem fractionalFields_exact :
    ((fractionalFields r).p1.toNat : Int) = ratioP1 r ∧ ((fractionalFields r).p2.toNat : Int) = ratioP2 r ∧
    (fractionalFields r).p3.toNat = r.c := by
  refine ⟨?_, ?_, fractionalFields_p3_toNat hc⟩
  · have hp1 := fractionalFields_p1_add h
    unfold ratioP1
    omega
  · rw [ratioP2_eq, fractionalFields_p2_eq_mod h hc]

end

theorem ratioP2_lt {r : Ratio} (hc : 1 ≤ r.c) : ratioP2 r < r.c := by
  rw [ratioP2_eq]
  exact_mod_cast Nat.mod_lt _ hc

/-- Settles O20: the contract is the range because `temp` is below 128, and P2 is a remainder by c. -/
theorem ratioContractIsRange : Obligations.RatioContractIsRange :=
  ⟨ratioOK_iff_inRange, fun r h hc =>
    ⟨Nat.le_of_lt_succ (ratioTemp_lt r h.2.1), ratioP2_eq r, ratioP2_lt h.1, fractionalFields_exact h hc⟩⟩

/-- Settles O25: P1 + 512 is 128 × a + `temp`, and P2 / P3 is what `temp` leaves of 128 × b / c. -/
theorem fieldsRepresentRatio : Obligations.FieldsRepresentRatio := fun _ => fields_represent_ratio

end Sys2Proof.Machine
end

section
/-! SUPPORT. An encode either records an error or writes its own image, said once for the three encode commands (40_encoder.md,
Part 3), and what the reference decoder reads from that image. -/

namespace Sys2Proof.Machine

/-! ### When an encode completes -/

/-- The kind of the image a command writes, where it is an encode (10_state.md R25). -/
def encodeKind (i : Instr) : ImageKind := if i = .encpll then .pll else .multiSynth

/-- The command is an encode that passes its checks in s: `ENCMS.S` has a latched plan, and the fractional path a ratio in range
(60_exceptions.md R187). -/
structure EncodeReady (i : Instr) (s : State) : Prop where
  ne_nop : i ≠ .nop
  ne_select : i ≠ .select
  selv : i = .encmsS → statusSelv s.status = true
  inRange : takesFractionalPath i s = true → RatioInRange (ratioOperands s)

theorem encodeReady_encpll {s : State} (h : RatioInRange (ratioOperands s)) : EncodeReady .encpll s where
  ne_nop := nofun
  ne_select := nofun
  selv := nofun
  inRange _ := h

theorem encodeReady_encms {int : Bool} {s : State} (h : int = true ∨ RatioInRange (ratioOperands s)) (d4 : Bool)
    (rdiv : RDivCode) : EncodeReady (.encms int d4 rdiv) s where
  ne_nop := nofun
  ne_select := nofun
  selv := nofun
  inRange hfrac := h.resolve_left (ne_true_of_eq_false (Bool.eq_false_of_not_eq_true' hfrac))

theorem encodeReady_encmsS {s : State} (hselv : statusSelv s.status = true)
    (h : s.sel.int = true ∨ RatioInRange (ratioOperands s)) : EncodeReady .encmsS s where
  ne_nop := nofun
  ne_select := nofun
  selv _ := hselv
  inRange hfrac := h.resolve_left (ne_true_of_eq_false (Bool.eq_false_of_not_eq_true' hfrac))

/-- A MultiSynth encode that reads no ratio, or one in range, writes the override's image or the ratio's. -/
theorem encodeMultiSynth_of_ready {m : ModeFields} {s : State} (h : (!m.int) = true → RatioInRange (ratioOperands s)) :
    encodeMultiSynth m s = writeImage .multiSynth
      (if (!m.int) = true then fractionalLayout (ratioOperands s) (modeBits m.d4 m.rdiv)
        else layout 0 0 1 (modeBits m.d4 m.rdiv)) s := by
  obtain ⟨int, d4, rdiv⟩ := m
  cases int with
  | true => exact encodeMultiSynth_override d4 rdiv s
  | false => exact encodeMultiSynth_of_inRange (h rfl) d4 rdiv

/-- An encode that passes its checks writes its image, and that is all it does. -/
theorem EncodeReady.exec_eq {i : Instr} {s : State} (h : EncodeReady i s) :
    exec i s = .next (writeImage (encodeKind i) (encodedImage i s) s) := by
  cases i with
  | nop => exact absurd rfl h.ne_nop
  | select => exact absurd rfl h.ne_select
  | encpll => exact congrArg Host.Outcome.next (encodePll_of_inRange (h.inRange rfl))
  | encms int d4 rdiv => exact congrArg Host.Outcome.next (encodeMultiSynth_of_ready h.inRange)
  | encmsS =>
    exact (exec_encmsS_of_selv (h.selv rfl)).trans (congrArg Host.Outcome.next (encodeMultiSynth_of_ready h.inRange))

/-- An encode passes its checks, or records `E_RNG` or `E_NOSEL` and does nothing else. -/
theorem encodeReady_or_raises {i : Instr} (s : State) (hnop : i ≠ .nop) (hselect : i ≠ .select) :
    EncodeReady i s ∨ ∃ e, e ≠ .ill ∧ exec i s = .next (raiseError e s) := by
  by_cases hselv : i = .encmsS → statusSelv s.status = true
  · by_cases hrange : takesFractionalPath i s = true → RatioInRange (ratioOperands s)
    · exact .inl ⟨hnop, hselect, hselv, hrange⟩
    · obtain ⟨hfrac, hbad⟩ := Classical.not_imp.mp hrange
      refine .inr ⟨.rng, nofun, ?_⟩
      rw [raiseError_eq_recorded]
      exact exec_of_not_inRange hselv hfrac hbad
  · obtain ⟨rfl, hunset⟩ := Classical.not_imp.mp hselv
    refine .inr ⟨.nosel, nofun, ?_⟩
    rw [raiseError_eq_recorded]
    exact exec_encmsS_of_not_selv (eq_false_of_ne_true hunset)

/-- What each command leaves: `NOP` and `SELECT` one state, an encode the state with its image or with its error recorded. -/
theorem exec_result_cases {i : Instr} {s t : State} (h : exec i s = .next t) :
    (i = .nop ∧ t = advance s) ∨
    (i = .select ∧ t = writeLatches (plan Config.cfg (freqOperand s)) s) ∨
    (i ≠ .nop ∧ i ≠ .select ∧ ∃ e, e ≠ .ill ∧ t = raiseError e s) ∨
    (EncodeReady i s ∧ t = writeImage (encodeKind i) (encodedImage i s) s) := by
  by_cases hnop : i = .nop
  · cases hnop
    cases (exec_nop s).symm.trans h
    exact .inl ⟨rfl, rfl⟩
  by_cases hselect : i = .select
  · cases hselect
    cases (exec_select s).symm.trans h
    exact .inr (.inl ⟨rfl, rfl⟩)
  obtain hready | ⟨e, he, hraise⟩ := encodeReady_or_raises s hnop hselect
  · cases hready.exec_eq.symm.trans h
    exact .inr (.inr (.inr ⟨hready, rfl⟩))
  · cases hraise.symm.trans h
    exact .inr (.inr (.inl ⟨hnop, hselect, e, he, rfl⟩))

/-! ### What the reference decoder reads from the image of an encode (R107, R108) -/

/-- The register fields an encode packs: those of its ratio, or the override's. -/
def encodedFields (i : Instr) (s : State) : Fields :=
  if takesFractionalPath i s = true then fractionalFields (ratioOperands s) else overrideFields

/-- The R-divider code an encode packs: none in the PLL form, the word's for `ENCMS`, the latched one for `ENCMS.S`. -/
def encodedRdiv : Instr → State → RDivCode
  | .encms _ _ rdiv, _ => rdiv
  | .encmsS, s => s.sel.rdiv
  | _, _ => 0

/-- The divide-by-4 flag an encode packs, from the same places. -/
def encodedD4 : Instr → State → Bool
  | .encms _ d4 _, _ => d4
  | .encmsS, s => s.sel.d4
  | _, _ => false

theorem packedModeBits_eq (i : Instr) (s : State) :
    packedModeBits i s = 16 * (encodedRdiv i s).toNat + 4 * (divBy4Field (encodedD4 i s)).toNat := by
  rw [modeBits_eq]
  cases i <;> rfl

namespace EncodeReady

variable {i : Instr} {s : State} (h : EncodeReady i s)
include h

theorem encodedImage_eq_pack : encodedImage i s = pack (encodedFields i s) (encodedRdiv i s) (divBy4Field (encodedD4 i s)) := by
  rw [encodedImage, encodedFields, packedModeBits_eq]
  split_ifs with hfrac
  · rw [pack_fractionalFields (h.inRange hfrac) (ratioOperands_c_lt s)]
  · rw [pack_overrideFields, modeBits_eq]

theorem unpack_encodedImage :
    unpack (encodedImage i s) = ⟨encodedFields i s, encodedRdiv i s, divBy4Field (encodedD4 i s)⟩ := by
  rw [h.encodedImage_eq_pack, unpack_pack]

theorem decodeRatio_encodedFields :
    decodeRatio (encodedFields i s) = if takesFractionalPath i s = true then ratioOperands s else ⟨4, 0, 1⟩ := by
  rw [encodedFields]
  split_ifs with hfrac
  · exact decodeRatio_fractionalFields (h.inRange hfrac) (ratioOperands_c_lt s)
  · exact decodeRatio_overrideFields

/-- P3 is the denominator c, at least 1, and P2 a remainder by it; or the override's 1 and 0. -/
theorem encodedFields_legal :
    1 ≤ (encodedFields i s).p3.toNat ∧ (encodedFields i s).p2.toNat < (encodedFields i s).p3.toNat := by
  rw [encodedFields]
  split_ifs with hfrac
  · have hc := ratioOperands_c_lt s
    have hin := h.inRange hfrac
    exact ⟨by rw [fractionalFields_p3_toNat hc]; exact hin.1, fractionalFields_p2_lt_p3 hin hc⟩
  · decide

/-- The round trip of an encode: it completes, and the reference decoder recovers the ratio and the mode fields. -/
theorem roundTrip : ∃ t, exec i s = .next t ∧
    decodeRatio (unpack t.img).fields = (if takesFractionalPath i s = true then ratioOperands s else ⟨4, 0, 1⟩) ∧
    (unpack t.img).rdiv = encodedRdiv i s ∧ (unpack t.img).dv4 = divBy4Field (encodedD4 i s) := by
  refine ⟨_, h.exec_eq, ?_⟩
  rw [writeImage_img, h.unpack_encodedImage]
  exact ⟨h.decodeRatio_encodedFields, rfl, rfl⟩

end EncodeReady

/-- Settles O28: the round trip of `ENCPLL`, which packs no mode fields. -/
theorem pllImageRoundTrip : Obligations.PllImageRoundTrip := fun _ h => (encodeReady_encpll h).roundTrip

/-- Settles O33: the round trip of `ENCMS` on the fractional path. -/
theorem multiSynthImageRoundTrip : Obligations.MultiSynthImageRoundTrip :=
  fun d4 rdiv _ h => (encodeReady_encms (.inr h) d4 rdiv).roundTrip

/-! ### `ENCMS.S` on the latched plan (R122) -/

theorem encodedImage_encms (int d4 : Bool) (rdiv : RDivCode) (s : State) :
    encodedImage (.encms int d4 rdiv) s =
      if int = true then layout 0 0 1 (modeBits d4 rdiv) else fractionalLayout (ratioOperands s) (modeBits d4 rdiv) := by
  cases int <;> rfl

/-- The image of `ENCMS.S` is the one `ENCMS` writes for the latched mode fields. -/
theorem encodedImage_encmsS (s : State) :
    encodedImage .encmsS s =
      if s.sel.int = true then layout 0 0 1 (modeBits s.sel.d4 s.sel.rdiv)
      else fractionalLayout (ratioOperands s) (modeBits s.sel.d4 s.sel.rdiv) :=
  encodedImage_encms s.sel.int s.sel.d4 s.sel.rdiv s

/-- Settles O36: a latched plan, and Integer mode or a ratio in range, are all the checks `ENCMS.S` makes. -/
theorem encmsSCompletes : Obligations.EncmsSCompletes := by
  intro s hselv h
  rw [(encodeReady_encmsS hselv h).exec_eq, encodedImage_encmsS]
  exact congrArg Host.Outcome.next (writeImage_multiSynth_eq _ s)

/-- The ratio `ENCMS.S` encodes, by the latched DividerMode. -/
theorem ratio_encmsS (s : State) :
    (if takesFractionalPath .encmsS s = true then ratioOperands s else ⟨4, 0, 1⟩) =
      if s.sel.int then ⟨4, 0, 1⟩ else ratioOperands s := by
  rw [takesFractionalPath]
  cases s.sel.int <;> rfl

/-- Settles O37: `SELECT` latches its plan and sets `SELV`, driving the ratio ports keeps both, and `ENCMS.S` completes on them. -/
theorem encmsSUsesLatestSelect : Obligations.EncmsSUsesLatestSelect := by
  intro s a b c h
  have hready : EncodeReady .encmsS (driveRatio a b c (writeLatches (plan Config.cfg (freqOperand s)) s)) :=
    encodeReady_encmsS (statusSelv_afterSelect s.status) (.inr h)
  refine ⟨_, _, exec_select s, hready.exec_eq, rfl, ?_⟩
  rw [writeImage_img, hready.unpack_encodedImage]
  exact ⟨rfl, rfl, hready.decodeRatio_encodedFields.trans (ratio_encmsS _)⟩

end Sys2Proof.Machine
end

section
/-! SUPPORT. What a command can change, field by field (10_state.md sections 3 to 5, 40_encoder.md Part 3), from the four ways a
command can end; and what the encodes do not read. -/

namespace Sys2Proof.Machine

/-! ### `STATUS` under a mask -/

/-- Setting bits outside a mask changes nothing under it. -/
theorem or_and_of_disjoint {m n : Byte} (h : m &&& n = 0#8) (st : Byte) : (st ||| m) &&& n = st &&& n := by
  rw [BitVec.and_or_distrib_right, h]
  exact BitVec.or_zero

/-- Recording an error leaves `IMGV` and `IMGK`. -/
theorem statusAfterError_and_imageBits (e : ErrorCode) (st : Byte) : statusAfterError e st &&& 0x06#8 = st &&& 0x06#8 := by
  rw [statusAfterError_eq]
  cases e <;> exact or_and_of_disjoint rfl st

/-- `E_RNG` and `E_NOSEL`, the errors of an encode, are bits 5 and 6. -/
theorem statusAfterError_and_frameBits {e : ErrorCode} (he : e ≠ .ill) (st : Byte) :
    statusAfterError e st &&& 0x99#8 = st &&& 0x99#8 := by
  rw [statusAfterError_eq]
  cases e with
  | ill => exact absurd rfl he
  | rng => exact or_and_of_disjoint rfl st
  | nosel => exact or_and_of_disjoint rfl st

/-- A completed encode writes bits 1 and 2 only. -/
theorem statusAfterEncode_and_frameBits (k : ImageKind) (st : Byte) :
    statusAfterEncode k st &&& 0x99#8 = st &&& 0x99#8 := by
  cases k with
  | pll =>
    rw [statusAfterEncode_pll_eq, BitVec.and_assoc]
    exact or_and_of_disjoint rfl st
  | multiSynth =>
    rw [statusAfterEncode_multiSynth_eq]
    exact or_and_of_disjoint rfl st

/-- `IMGK` after an encode is 0 exactly for `ENCPLL` (R25). -/
theorem statusImgk_afterEncode_eq_false_iff (i : Instr) (st : Byte) :
    statusImgk (statusAfterEncode (encodeKind i) st) = false ↔ i = .encpll := by
  rw [statusImgk_afterEncode, encodeKind]
  split_ifs with h
  · exact iff_of_true rfl h
  · exact iff_of_false nofun h

/-! ### The frame of each command -/

/-- Settles O14: `SELECT` is one write of the latches. -/
theorem selectFrame : Obligations.SelectFrame := by
  intro s t h
  cases (exec_select s).symm.trans h
  rfl

/-- Settles O45: of the four ways a command can end, only latching a plan writes the latches. -/
theorem onlySelectWritesLatches : Obligations.OnlySelectWritesLatches := by
  intro i s t h hselect
  obtain ⟨-, rfl⟩ | ⟨rfl, -⟩ | ⟨-, -, e, -, rfl⟩ | ⟨-, rfl⟩ := exec_result_cases h
  · rfl
  · exact absurd rfl hselect
  · rfl
  · rfl

/-- Settles O46: only a completed encode writes `IMG`; it sets `IMGV` and writes `IMGK`. -/
theorem onlyEncodesWriteImage : Obligations.OnlyEncodesWriteImage := by
  intro i s t h
  obtain ⟨-, rfl⟩ | ⟨-, rfl⟩ | ⟨-, -, e, -, rfl⟩ | ⟨hready, rfl⟩ := exec_result_cases h
  · exact .inl ⟨rfl, rfl⟩
  · exact .inl ⟨rfl, or_and_of_disjoint rfl s.status⟩
  · exact .inl ⟨rfl, statusAfterError_and_imageBits e s.status⟩
  · exact .inr ⟨hready.ne_nop, hready.ne_select, statusImgv_afterEncode _ _, statusImgk_afterEncode_eq_false_iff i s.status,
      statusAfterEncode_and_errorBits _ _⟩

/-- Settles O47: an encode writes its image or records `E_RNG` or `E_NOSEL`. -/
theorem encodeFrame : Obligations.EncodeFrame := by
  intro i s t hnop hselect h
  obtain ⟨rfl, -⟩ | ⟨rfl, -⟩ | ⟨-, -, e, he, rfl⟩ | ⟨-, rfl⟩ := exec_result_cases h
  · exact absurd rfl hnop
  · exact absurd rfl hselect
  · exact ⟨rfl, statusAfterError_and_frameBits he s.status⟩
  · exact ⟨rfl, statusAfterEncode_and_frameBits _ _⟩

namespace CommandEffect

variable {s t : State}

theorem statusSelv_of_statusSelv (h : CommandEffect s t) (hv : statusSelv s.status = true) : statusSelv t.status = true := by
  cases h with
  | advance => exact hv
  | raiseError e => simpa using hv
  | writeLatches p => exact statusSelv_afterSelect _
  | writeImage k im => simpa using hv

theorem statusImgv_of_statusImgv (h : CommandEffect s t) (hv : statusImgv s.status = true) : statusImgv t.status = true := by
  cases h with
  | advance => exact hv
  | raiseError e => simpa using hv
  | writeLatches p => simpa using hv
  | writeImage k im => exact statusImgv_afterEncode _ _

/-- The effect that sets an error bit is the recording of that error. -/
theorem eq_raiseError_of_new (h : CommandEffect s t) {e : ErrorCode} (hold : statusError e s.status = false)
    (hnew : statusError e t.status = true) : t = Machine.raiseError e s := by
  cases h with
  | advance => exact absurd hnew (ne_true_of_eq_false hold)
  | raiseError e' =>
    rw [raiseError_status, statusError_afterError, hold, Bool.or_false, decide_eq_true_eq] at hnew
    rw [hnew]
  | writeLatches p =>
    rw [writeLatches_status, statusError_afterSelect] at hnew
    exact absurd hnew (ne_true_of_eq_false hold)
  | writeImage k im =>
    rw [writeImage_status, statusError_afterEncode] at hnew
    exact absurd hnew (ne_true_of_eq_false hold)

end CommandEffect

/-- Settles O48: none of the four effects of a command clears `SELV` or `IMGV`. -/
theorem validBitsStay : Obligations.ValidBitsStay := fun _ _ hrst hstep =>
  ⟨(commandEffect_of_step hrst hstep).statusSelv_of_statusSelv, (commandEffect_of_step hrst hstep).statusImgv_of_statusImgv⟩

/-- Settles O41: the step recorded the one error, and recording it sets no bit but its own. -/
theorem atMostOneNewError : Obligations.AtMostOneNewError := by
  intro s t e e' hrst hstep hold hnew hold' hnew'
  cases (commandEffect_of_step hrst hstep).eq_raiseError_of_new hold hnew
  by_contra hne
  rw [statusError_raiseError_of_ne s (Ne.symm hne), hold'] at hnew'
  cases hnew'

/-- Settles O42: an encode that recorded an error would have left its bit set, so this one passed its checks. -/
theorem cleanStatusMeansFreshImage : Obligations.CleanStatusMeansFreshImage := by
  intro i s t hnop hselect h hrng hnosel
  obtain ⟨rfl, -⟩ | ⟨rfl, -⟩ | ⟨-, -, e, he, rfl⟩ | ⟨hready, rfl⟩ := exec_result_cases h
  · exact absurd rfl hnop
  · exact absurd rfl hselect
  · cases e with
    | ill => exact absurd rfl he
    | rng => simp at hrng
    | nosel => simp at hnosel
  · refine ⟨rfl, statusImgv_afterEncode _ _, statusImgk_afterEncode_eq_false_iff i s.status, ?_⟩
    rw [writeImage_img, hready.unpack_encodedImage, packedModeBits_eq]
    exact ⟨hready.decodeRatio_encodedFields, rfl⟩

/-! ### What the encodes do not read -/

theorem encodePll_withSel (s : State) (p : SelLatches) :
    encodePll { s with sel := p } = { encodePll s with sel := p } := by
  obtain ⟨hok, h⟩ | ⟨hbad, h⟩ := encodePll_cases s
  · rw [h]
    exact if_pos hok
  · rw [h]
    exact if_neg (ne_true_of_eq_false hbad)

theorem encodeMultiSynth_withSel (m : ModeFields) (s : State) (p : SelLatches) :
    encodeMultiSynth m { s with sel := p } = { encodeMultiSynth m s with sel := p } := by
  have hratio : ratioOperands { s with sel := p } = ratioOperands s := rfl
  rw [encodeMultiSynth, encodeMultiSynth, hratio]
  cases multiSynthFields m.int (ratioOperands s) <;> rfl

/-- Settles O27: the PLL encode reads the ratio ports alone. -/
theorem encpllIgnoresLatches : Obligations.EncpllIgnoresLatches := by
  rintro s t p ⟨⟩
  exact congrArg Host.Outcome.next (encodePll_withSel s p)

/-- Settles O31: the mode fields of `ENCMS` are in its word. -/
theorem encmsIgnoresLatches : Obligations.EncmsIgnoresLatches := by
  rintro int d4 rdiv s t p ⟨⟩
  exact congrArg Host.Outcome.next (encodeMultiSynth_withSel ⟨int, d4, rdiv⟩ s p)

/-- Settles O32: the override's image does not depend on the state. -/
theorem integerModeIgnoresRatio : Obligations.IntegerModeIgnoresRatio := by
  rintro d4 rdiv s t a b c ⟨⟩
  refine congrArg Host.Outcome.next ?_
  rw [encodeMultiSynth_override, encodeMultiSynth_override]
  rfl

end Sys2Proof.Machine
end

section
/-! SUPPORT. The invariant (10_state.md sections 3 to 5): each operation of the state keeps it, so every step and every run of host
acts does. -/

namespace Sys2Proof.Machine

/-! ### The images an encode writes are legal (30_encoding.md R79, R83, R84, 40_encoder.md R103, R104) -/

/-- A PLL encode packs no mode fields. -/
theorem encoded_mode_of_pll {i : Instr} (s : State) (h : (encodeKind i).bit = false) :
    encodedRdiv i s = 0 ∧ divBy4Field (encodedD4 i s) = 0 := by
  cases i with
  | encpll => exact ⟨rfl, rfl⟩
  | nop | select | encms int d4 rdiv | encmsS => cases h

theorem EncodeReady.imgLegal {i : Instr} {s : State} (h : EncodeReady i s) :
    ImgLegal (encodeKind i).bit (encodedImage i s) where
  bit7 := by
    rw [h.encodedImage_eq_pack]
    exact pack_bit7 _ _ _
  dv4 := by
    rw [h.unpack_encodedImage]
    exact divBy4Field_cases _
  pllForm hpll := by
    rw [h.unpack_encodedImage]
    exact encoded_mode_of_pll s hpll
  p3 := by
    rw [h.unpack_encodedImage]
    exact h.encodedFields_legal.1
  p2 := by
    rw [h.unpack_encodedImage]
    exact h.encodedFields_legal.2

/-! ### The reserved bits of `STATUS` (R25) -/

theorem statusLegal_afterSelect {st : Byte} (h : StatusLegal st) : StatusLegal (statusAfterSelect st) :=
  ⟨(statusAfterSelect_getLsbD st 3).trans h.1, (statusAfterSelect_getLsbD st 7).trans h.2⟩

theorem statusLegal_afterEncode (k : ImageKind) {st : Byte} (h : StatusLegal st) :
    StatusLegal (statusAfterEncode k st) :=
  ⟨(statusAfterEncode_getLsbD k st 3).trans h.1, (statusAfterEncode_getLsbD k st 7).trans h.2⟩

theorem statusLegal_afterError (e : ErrorCode) {st : Byte} (h : StatusLegal st) : StatusLegal (statusAfterError e st) := by
  cases e <;> exact ⟨(statusAfterError_getLsbD _ st 3).trans h.1, (statusAfterError_getLsbD _ st 7).trans h.2⟩

/-! ### Each operation keeps the invariant -/

/-- With `STATUS` 0 there is no plan and no image to be legal. -/
theorem stateInv_of_status_eq_zero {s : State} (h : s.status = 0x00#8) : StateInv s := by
  refine ⟨?_, fun hsel => ?_, fun himg => ?_, fun _ => ?_⟩
  · rw [h]
    exact ⟨rfl, rfl⟩
  · rw [h] at hsel
    cases hsel
  · rw [h] at himg
    cases himg
  · rw [h]
    rfl

namespace StateInv

variable {s : State} (h : StateInv s)
include h

/-- The invariant does not read the ports. -/
theorem withPorts (p : Ports) : StateInv { s with ports := p } := ⟨h.status, h.sel, h.img, h.imgk⟩

/-- Nor the index. -/
theorem advance : StateInv (advance s) := ⟨h.status, h.sel, h.img, h.imgk⟩

theorem raiseError (e : ErrorCode) : StateInv (raiseError e s) where
  status := statusLegal_afterError e h.status
  sel hv := h.sel (by simpa using hv)
  img hv := by simpa using h.img (by simpa using hv)
  imgk hv := by simpa using h.imgk (by simpa using hv)

theorem writeLatches {p : SelLatches} (hp : SelLegal Config.cfg p) : StateInv (writeLatches p s) where
  status := statusLegal_afterSelect h.status
  sel _ := hp
  img hv := by simpa using h.img (by simpa using hv)
  imgk hv := by simpa using h.imgk (by simpa using hv)

theorem writeImage {k : ImageKind} {im : Image} (him : ImgLegal k.bit im) : StateInv (writeImage k im s) where
  status := statusLegal_afterEncode k h.status
  sel hv := h.sel (by simpa using hv)
  img _ := by simpa using him
  imgk hv := by simp at hv

/-! ### A command, a step, an act of the host, a run -/

theorem exec {i : Instr} {t : State} (hexec : exec i s = .next t) : StateInv t := by
  obtain ⟨-, rfl⟩ | ⟨-, rfl⟩ | ⟨-, -, e, -, rfl⟩ | ⟨hready, rfl⟩ := exec_result_cases hexec
  · exact h.advance
  · exact h.writeLatches (plan_legal _ Config.chip.wf _)
  · exact h.raiseError e
  · exact h.writeImage hready.imgLegal

theorem step {t : State} (hstep : step s = .next t) : StateInv t := by
  obtain ⟨-, hreset⟩ | ⟨-, i, -, hexec⟩ | ⟨-, _, -, hill⟩ := step_cases s
  · cases hreset.symm.trans hstep
    exact stateInv_of_status_eq_zero (resetEvent_status s)
  · exact h.exec (hexec.symm.trans hstep)
  · cases hill.symm.trans hstep
    exact h.raiseError .ill

theorem exists_step : ∃ t, Machine.step s = .next t ∧ StateInv t := by
  obtain ⟨t, hstep⟩ := everyStepCompletes s
  exact ⟨t, hstep, h.step hstep⟩

theorem exists_hostAct (x : HostAct) : ∃ t, hostAct x s = .next t ∧ StateInv t := by
  cases x with
  | driveFreq f => exact ⟨_, rfl, h.withPorts _⟩
  | driveRatio a b c => exact ⟨_, rfl, h.withPorts _⟩
  | issue w => exact (h.withPorts _).exists_step
  | reset =>
    obtain ⟨t, hstep, ht⟩ : ∃ t, Machine.step (driveReset true s) = .next t ∧ StateInv t := (h.withPorts _).exists_step
    refine ⟨driveReset false t, ?_, ht.withPorts _⟩
    rw [hostAct, hstep, andThen_next]

end StateInv

/-- Settles O53: after reset `STATUS` is 0. -/
theorem invariantAtReset : Obligations.InvariantAtReset := stateInv_of_status_eq_zero reset_status

/-- Settles O54: the reset event leaves `STATUS` 0; a command latches a legal plan, writes a legal image, or touches neither. -/
theorem stepKeepsInvariant : Obligations.StepKeepsInvariant := fun _ _ h hstep => h.step hstep

/-- Settles O55, by induction on the acts: each completes and keeps the invariant. -/
theorem hostRunKeepsInvariant : Obligations.HostRunKeepsInvariant := by
  intro acts
  induction acts with
  | nil => exact fun s h => ⟨s, rfl, h⟩
  | cons x xs ih =>
    intro s h
    obtain ⟨t, hact, ht⟩ := h.exists_hostAct x
    obtain ⟨u, hrun, hu⟩ := ih t ht
    refine ⟨u, ?_, hu⟩
    rw [hostRun, hact, andThen_next, hrun]

end Sys2Proof.Machine
end

section
/-! SUPPORT. The reset event (70_reset_and_hazards.md section 1) and the host's reads (20_memory.md sections 2 and 4). -/

namespace Sys2Proof.Machine

/-! ### The reset event (R220) -/

theorem step_of_rst {s : State} (h : s.ports.rst = true) : step s = .next (resetEvent s) := if_pos h

/-- Settles O50: the reset event keeps `RST`, so the next step is one too, from latches and an image already reset. -/
theorem resetEventClears : Obligations.ResetEventClears :=
  fun s h => ⟨resetEvent s, step_of_rst h, rfl, rfl, rfl, step_of_rst (s := resetEvent s) h⟩

/-! ### Reads of unwritten storage (10_state.md R23, R24) -/

/-- Settles O51: while `SELV` (or `IMGV`) is 0 a read is a function of the count of resets and the index. -/
theorem unwrittenReadsIgnoreStorage : Obligations.UnwrittenReadsIgnoreStorage := by
  refine ⟨fun s p hselv => ?_, fun s im k himgv => ?_⟩
  · have hread : statusSelv s.status = false := hselv
    simp [readFout, readFpll, readFwork, readRdiv, readD4, readInt, hread]
  · have hread : statusImgv s.status = false := himgv
    simp [readImg, hread]

/-! ### Reads of written storage (20_memory.md R53, R56) -/

theorem readsPlan_iff_of_selv {s : State} (h : statusSelv s.status = true) (p : SelLatches) :
    ReadsPlan s p ↔ s.sel = p := by
  obtain ⟨hfout, hfpll, hfwork, hrdiv, hd4, hint⟩ := reads_of_selv s h
  rw [ReadsPlan, hfout, hfpll, hfwork, hrdiv, hd4, hint]
  exact (iff_of_eq (SelLatches.mk.injEq ..)).symm

theorem readsImage_iff_of_imgv {s : State} (h : statusImgv s.status = true) (im : Image) :
    ReadsImage s im ↔ s.img = im := by
  simp only [ReadsImage, readImg_of_imgv s _ h]
  exact (iff_of_eq (Image.mk.injEq ..)).symm

/-- After an encode that passes its checks the host reads its image. -/
theorem EncodeReady.exists_reads {i : Instr} {s : State} (h : EncodeReady i s) :
    ∃ t, Machine.exec i s = .next t ∧ ReadsImage t (encodedImage i s) ∧
      readStatus t = statusAfterEncode (encodeKind i) s.status :=
  ⟨_, h.exec_eq, (readsImage_iff_of_imgv (statusImgv_afterEncode _ _) _).mpr rfl, rfl⟩

/-- While the image is valid, a step that leaves it leaves what the host reads of it. -/
theorem ReadsImage.of_img_eq {s t : State} {im : Image} (h : ReadsImage s im) (hs : statusImgv s.status = true)
    (ht : statusImgv t.status = true) (himg : t.img = s.img) : ReadsImage t im := by
  rw [readsImage_iff_of_imgv hs] at h
  rw [readsImage_iff_of_imgv ht, himg, h]

theorem ReadsPlan.of_sel_eq {s t : State} {p : SelLatches} (h : ReadsPlan s p) (hs : statusSelv s.status = true)
    (ht : statusSelv t.status = true) (hsel : t.sel = s.sel) : ReadsPlan t p := by
  rw [readsPlan_iff_of_selv hs] at h
  rw [readsPlan_iff_of_selv ht, hsel, h]

/-- A step that runs no `SELECT` keeps the latches: its word is another command or no command. -/
theorem step_sel_of_not_select {s t : State} (hrst : s.ports.rst = false) (hcmd : decode s.ports.cmd ≠ .instr .select)
    (hstep : step s = .next t) : t.sel = s.sel := by
  obtain ⟨hr, -⟩ | ⟨-, i, hd, hexec⟩ | ⟨-, why, -, hill⟩ := step_cases s
  · cases hr.symm.trans hrst
  · refine onlySelectWritesLatches i s t (hexec.symm.trans hstep) ?_
    rintro rfl
    exact hcmd hd
  · cases hill.symm.trans hstep
    rfl

/-- `NOP` and `SELECT` keep the image and its validity. -/
theorem exec_img_of_not_encode {i : Instr} {s t : State} (hi : i = .nop ∨ i = .select) (h : exec i s = .next t) :
    t.img = s.img ∧ statusImgv t.status = statusImgv s.status := by
  obtain rfl | rfl := hi
  · cases (exec_nop s).symm.trans h
    exact ⟨rfl, rfl⟩
  · cases (exec_select s).symm.trans h
    exact ⟨rfl, statusImgv_afterSelect _⟩

/-- Settles O52: each write sets its valid bit, which makes a read return the stored value; whatever keeps both keeps the reads. -/
theorem readsReturnLatestWrite : Obligations.ReadsReturnLatestWrite := by
  refine ⟨fun s => ?_, fun s h => ?_, fun int d4 rdiv s h => ?_, fun s hselv h => ?_, fun s code hrst herr => ?_, fun s => ?_,
    fun s t p hrst hcmd hstep hselv hreads => ?_, fun i s t im hi h himgv hreads => ?_⟩
  · exact ⟨_, exec_select s, (readsPlan_iff_of_selv (statusSelv_afterSelect _) _).mpr rfl, rfl⟩
  · exact (encodeReady_encpll h).exists_reads
  · rw [← encodedImage_encms, ← statusAfterEncode_multiSynth_eq]
    exact (encodeReady_encms h d4 rdiv).exists_reads
  · rw [← encodedImage_encmsS, ← statusAfterEncode_multiSynth_eq]
    exact (encodeReady_encmsS hselv h).exists_reads
  · have hstep := step_of_commandError_eq_some hrst herr
    exact ⟨_, hstep, rfl, fun im himgv hreads => hreads.of_img_eq himgv ((validBitsStay _ _ hrst hstep).2 himgv) rfl⟩
  · exact ⟨_, exec_nop s, rfl⟩
  · exact hreads.of_sel_eq hselv ((validBitsStay s t hrst hstep).1 hselv) (step_sel_of_not_select hrst hcmd hstep)
  · obtain ⟨himg, hv⟩ := exec_img_of_not_encode hi h
    exact hreads.of_img_eq himgv (hv.trans himgv) himg

end Sys2Proof.Machine
end

section
/-! SUPPORT. The laws of the mode selector under every well-formed configuration (41_selector.md, Parts 1 and 2). -/

namespace Sys2Proof.Machine

theorem selectWith_sel (c : Cfg) (s : State) : (selectWith c s).sel = plan c (freqOperand s) := rfl

/-! ### The clamp (R142, R149) -/

/-- The plan reads the request through the clamp alone. -/
theorem plan_congr {c : Cfg} {v v' : Nat} (h : clampedFreq c v = clampedFreq c v') : plan c v = plan c v' := by
  simp only [plan, h]

theorem clampedFreq_of_le_minOut {c : Cfg} (h : c.WF) {v : Nat} (hv : v ≤ c.minOut) : clampedFreq c v = c.minOut := by
  rw [clampedFreq, clamp, Nat.max_eq_right hv, Nat.min_eq_left h.minPos.2.1]

theorem clampedFreq_of_maxOut_le {c : Cfg} {v : Nat} (hv : c.maxOut ≤ v) : clampedFreq c v = c.maxOut := by
  rw [clampedFreq, clamp, Nat.min_eq_right (hv.trans (Nat.le_max_left _ _))]

/-- A frequency of the clamped range fits `FREQ_IN`. -/
theorem ofNat_toNat_of_le_maxOut {c : Cfg} (h : c.WF) {v : Nat} (hv : v ≤ c.maxOut) : (BitVec.ofNat 32 v).toNat = v :=
  Nat.mod_eq_of_lt (hv.trans_lt h.minPos.2.2)

/-- A request that clamps to an edge gives the latches of the edge itself. -/
theorem selectWith_sel_of_clamped {c : Cfg} (h : c.WF) (s : State) {f : Freq} {edge : Nat} (hle : edge ≤ c.maxOut)
    (hf : clampedFreq c f.toNat = edge) (hedge : clampedFreq c edge = edge) :
    (selectWith c (driveFreq f s)).sel = (selectWith c (driveFreq (BitVec.ofNat 32 edge) s)).sel ∧
    (selectWith c (driveFreq f s)).sel.fout.toNat = edge := by
  simp only [selectWith_sel, freqOperand_driveFreq, ofNat_toNat_of_le_maxOut h hle]
  exact ⟨plan_congr (hf.trans hedge.symm), (plan_fout_toNat c h _).trans hf⟩

/-- Settles O16: a request beyond an edge clamps to it, and the edge to itself. -/
theorem clampLaw : Obligations.ClampLaw := fun _ h s _ =>
  ⟨fun hlow => selectWith_sel_of_clamped h s h.minPos.2.1 (clampedFreq_of_le_minOut h hlow.le)
      (clampedFreq_of_le_minOut h le_rfl),
    fun hhigh => selectWith_sel_of_clamped h s le_rfl (clampedFreq_of_maxOut_le hhigh.le) (clampedFreq_of_maxOut_le le_rfl)⟩

/-! ### The R-divider bands (R143, R145) -/

/-- Settles O17: in each band the multiplexer gives the band's code, and the four codes differ. -/
theorem rDividerBandsPartition : Obligations.RDividerBandsPartition := by
  intro c h f hlo hhi
  have hlt : (rdivSelect c f).work < 2 ^ 32 := rdivSelect_work_lt c f (hhi.trans_lt h.minPos.2.2)
  obtain ⟨hge, hbelow, heq⟩ | ⟨hge, hbelow, heq⟩ | ⟨-, hbelow, heq⟩ | ⟨hge, heq⟩ := rdivSelect_cases c f
  all_goals
    rw [heq] at hlt ⊢
    refine ⟨?_, ?_, ?_, ?_, hlt⟩ <;> simp <;> omega

/-! ### The PLL bands (R146, R148) -/

theorem not_mem_of_bandsDisjoint {lo hi lo' hi' f : Nat} (h : bandsDisjoint lo hi lo' hi') (hin : lo ≤ f ∧ f < hi) :
    ¬ (lo' ≤ f ∧ f < hi') := by
  omega

/-- Settles O18: a frequency in one band is in none of those before it in the priority order (`cfg_band_disjoint`). -/
theorem pllBandsDecideAlone : Obligations.PllBandsDecideAlone := by
  intro c h f
  obtain ⟨hv8, hv6, hv4, h86, h84, h64⟩ := h.bandDisjoint
  refine ⟨fun hin => if_pos hin, fun hin => ?_, fun hin => ?_, fun hin => ?_, fun ⟨hnot8, hnot6, hnot4, hge⟩ => ?_⟩
  · have hnot8 := fun hin8 => not_mem_of_bandsDisjoint h86 hin8 hin
    rw [pllSelect, if_neg hnot8, if_pos hin]
  · have hnot8 := fun hin8 => not_mem_of_bandsDisjoint h84 hin8 hin
    have hnot6 := fun hin6 => not_mem_of_bandsDisjoint h64 hin6 hin
    rw [pllSelect, if_neg hnot8, if_neg hnot6, if_pos hin]
  · have hlow : 0 ≤ f ∧ f < Config.veryLowEdge := ⟨Nat.zero_le f, hin⟩
    rw [pllSelect, if_neg (not_mem_of_bandsDisjoint hv8 hlow), if_neg (not_mem_of_bandsDisjoint hv6 hlow),
      if_neg (not_mem_of_bandsDisjoint hv4 hlow), if_pos hin]
  · rw [pllSelect, if_neg hnot8, if_neg hnot6, if_neg hnot4, if_neg (Nat.not_lt.mpr hge)]

/-! ### The output frequency of a plan (R151) -/

/-- A legal plan divides its PLL frequency down to its output frequency: the exact ratio leaves the working frequency, which is
the output frequency times the R-divider value. -/
theorem SelLegal.outputFrequency {c : Cfg} {p : SelLatches} (h : SelLegal c p) (hpll : 0 < c.pllMin) :
    (p.fpll.toNat : ℚ) / ((p.fpll.toNat : ℚ) / (p.fwork.toNat : ℚ)) / 2 ^ p.rdiv.toNat = (p.fout.toNat : ℚ) := by
  have hne : (p.fpll.toNat : ℚ) ≠ 0 := by exact_mod_cast (hpll.trans_le h.fpll.1).ne'
  have hwork : (p.fwork.toNat : ℚ) = p.fout.toNat * 2 ^ p.rdiv.toNat := by exact_mod_cast h.fwork.1
  rw [div_div_cancel₀ hne, hwork, mul_div_cancel_right₀ _ (by positivity)]

/-- Settles O19: the latched plan is legal. -/
theorem planReachesOutputFrequency : Obligations.PlanReachesOutputFrequency :=
  fun c h hpll _ => (plan_legal c h _).outputFrequency hpll

end Sys2Proof.Machine
end

section
/-! SUPPORT. The host's protocol `setFrequency` (60_exceptions.md R200), step by step: the state after each command the host issues,
and what the host then reads and sends to the chip. -/

namespace Sys2Proof.Machine

/-! ### Step 1: `SELECT` -/

/-- The state after `FREQ_IN <- f ; issue SELECT`. -/
def selected (f : Freq) (s : State) : State :=
  writeLatches (plan Config.cfg f.toNat) (driveCommand (encode .select) (driveFreq f s))

theorem issueSelect_eq (f : Freq) (s : State) : issueSelect f s = .next (selected f s) := hostAct_issue_encode _ _

theorem selected_sel (f : Freq) (s : State) : (selected f s).sel = plan Config.cfg f.toNat := rfl

theorem selected_img (f : Freq) (s : State) : (selected f s).img = s.img := rfl

theorem statusSelv_selected (f : Freq) (s : State) : statusSelv (selected f s).status = true := statusSelv_afterSelect _

theorem selected_errorBits (f : Freq) (s : State) : (selected f s).status &&& 0xF8#8 = s.status &&& 0xF8#8 :=
  statusAfterSelect_and_errorBits _

/-- Settles O57: with no crystal the protocol ends after `SELECT`. -/
theorem setFrequencyWithoutCrystal : Obligations.SetFrequencyWithoutCrystal := by
  intro approx maxden bypass ch pll f s
  refine ⟨selected f s, ?_, selected_sel f s, selected_img f s⟩
  rw [setFrequency, issueSelect_eq, andThen_next, if_pos rfl]

/-! ### Steps 3 and 5: an encode on the ratio the approximator gives -/

/-- The words on the ratio ports, as the encoder reads them (R8). -/
def RatioWords.toRatio (r : RatioWords) : Ratio := ⟨r.a.toNat, r.b.toNat, r.c.toNat⟩

/-- The state when the host has driven a ratio and put the word of a command on `CMD`. -/
def loaded (i : Instr) (r : RatioWords) (s : State) : State := driveCommand (encode i) (driveRatio r.a r.b r.c s)

/-- The state after a completed encode on a ratio. -/
def encoded (i : Instr) (r : RatioWords) (s : State) : State :=
  writeImage (encodeKind i) (encodedImage i (loaded i r s)) (loaded i r s)

theorem issueEncode_of_ready {i : Instr} {r : RatioWords} {s : State} (h : EncodeReady i (loaded i r s)) :
    issueEncode i r s = .next (encoded i r s) :=
  (hostAct_issue_encode _ _).trans h.exec_eq

theorem statusSelv_encoded (i : Instr) (r : RatioWords) (s : State) :
    statusSelv (encoded i r s).status = statusSelv s.status :=
  statusSelv_afterEncode _ _

theorem statusImgv_encoded (i : Instr) (r : RatioWords) (s : State) : statusImgv (encoded i r s).status = true :=
  statusImgv_afterEncode _ _

theorem encoded_errorBits (i : Instr) (r : RatioWords) (s : State) :
    (encoded i r s).status &&& 0xF8#8 = s.status &&& 0xF8#8 :=
  statusAfterEncode_and_errorBits _ _

/-! ### What the host reads and transfers -/

theorem readFpll_of_selv {s : State} (h : statusSelv s.status = true) : readFpll s = s.sel.fpll := if_pos h

theorem readFwork_of_selv {s : State} (h : statusSelv s.status = true) : readFwork s = s.sel.fwork := if_pos h

theorem readInt_of_selv {s : State} (h : statusSelv s.status = true) : readInt s = s.sel.int := if_pos h

/-- A valid image goes to the chip byte by byte (20_memory.md R54). -/
theorem transferImage_of_imgv (base : Byte) {s : State} (h : statusImgv s.status = true) :
    transferImage base s =
      (List.range 8).map fun k => .writeRegister (base.toNat + k) (s.img.byte (BitVec.ofNat 3 k)) := by
  simp only [transferImage, readImg_of_imgv s _ h]

/-! ### The whole protocol -/

/-- The block after `SELECT` and an `ENCPLL` on the ratio r. -/
def pllEncoded (r : RatioWords) (f : Freq) (s : State) : State := encoded .encpll r (selected f s)

/-- The block after the `ENCMS.S` on the ratio r' that follows. -/
def bothEncoded (r r' : RatioWords) (f : Freq) (s : State) : State := encoded .encmsS r' (pllEncoded r f s)

theorem statusSelv_pllEncoded (r : RatioWords) (f : Freq) (s : State) : statusSelv (pllEncoded r f s).status = true :=
  (statusSelv_encoded _ _ _).trans (statusSelv_selected f s)

theorem statusSelv_bothEncoded (r r' : RatioWords) (f : Freq) (s : State) :
    statusSelv (bothEncoded r r' f s).status = true :=
  (statusSelv_encoded _ _ _).trans (statusSelv_pllEncoded r f s)

theorem statusImgv_pllEncoded (r : RatioWords) (f : Freq) (s : State) : statusImgv (pllEncoded r f s).status = true :=
  statusImgv_encoded _ _ _

theorem statusImgv_bothEncoded (r r' : RatioWords) (f : Freq) (s : State) :
    statusImgv (bothEncoded r r' f s).status = true :=
  statusImgv_encoded _ _ _

theorem pllEncoded_sel (r : RatioWords) (f : Freq) (s : State) : (pllEncoded r f s).sel = plan Config.cfg f.toNat := rfl

theorem bothEncoded_sel (r r' : RatioWords) (f : Freq) (s : State) : (bothEncoded r r' f s).sel = plan Config.cfg f.toNat :=
  rfl

theorem bothEncoded_errorBits (r r' : RatioWords) (f : Freq) (s : State) :
    (bothEncoded r r' f s).status &&& 0xF8#8 = s.status &&& 0xF8#8 :=
  calc (bothEncoded r r' f s).status &&& 0xF8#8
    _ = (pllEncoded r f s).status &&& 0xF8#8 := encoded_errorBits _ _ _
    _ = (selected f s).status &&& 0xF8#8 := encoded_errorBits _ _ _
    _ = s.status &&& 0xF8#8 := selected_errorBits f s

section
variable {r r' : RatioWords} (f : Freq) (s : State)

theorem encodeReady_pll (h : RatioInRange r.toRatio) : EncodeReady .encpll (loaded .encpll r (selected f s)) :=
  encodeReady_encpll h

theorem encodeReady_multiSynth (h : (plan Config.cfg f.toNat).int = false → RatioInRange r'.toRatio) :
    EncodeReady .encmsS (loaded .encmsS r' (pllEncoded r f s)) :=
  encodeReady_encmsS (statusSelv_pllEncoded r f s) ((Bool.eq_false_or_eq_true (plan Config.cfg f.toNat).int).imp_right h)

/-- The protocol on ratios that pass the checks: both images, and what the host does to the chip with them. -/
theorem setFrequency_eq {approx : Approximator} {xtal maxden : Nat} (bypass : Bool) (ch : Channel) (pll : PllName)
    (hxtal : xtal ≠ 0)
    (hr : approx (plan Config.cfg f.toNat).fpll.toNat xtal maxden = r)
    (hr' : approx (plan Config.cfg f.toNat).fpll.toNat (plan Config.cfg f.toNat).fwork.toNat maxden = r')
    (hpll : EncodeReady .encpll (loaded .encpll r (selected f s)))
    (hms : EncodeReady .encmsS (loaded .encmsS r' (pllEncoded r f s))) :
    setFrequency approx xtal maxden bypass ch pll f s = .next
      { block := bothEncoded r r' f s
        chip := transferImage (pllBase pll) (pllEncoded r f s) ++ [.resetPlls] ++
          transferImage (msBase ch) (bothEncoded r r' f s) ++
          [.writeControl ch (controlSource bypass pll) (plan Config.cfg f.toNat).int, .enableOutput ch] } := by
  have hfirst : issueEncode .encpll r (selected f s) = .next (pllEncoded r f s) := issueEncode_of_ready hpll
  have hsecond : issueEncode .encmsS r' (pllEncoded r f s) = .next (bothEncoded r r' f s) := issueEncode_of_ready hms
  rw [setFrequency, issueSelect_eq, andThen_next, if_neg hxtal, readFpll_of_selv (statusSelv_selected f s), selected_sel, hr,
    hfirst, andThen_next, readFpll_of_selv (statusSelv_pllEncoded r f s), readFwork_of_selv (statusSelv_pllEncoded r f s),
    pllEncoded_sel, hr', hsecond, andThen_next, readInt_of_selv (statusSelv_bothEncoded r r' f s), bothEncoded_sel]

end

/-- Settles O56: each encode passes its checks, so its image is valid and goes to the chip whole. -/
theorem setFrequencyProgramsChip : Obligations.SetFrequencyProgramsChip := by
  intro approx xtal maxden bypass ch pll f s hxtal hrange hrange'
  generalize hr : approx (plan Config.cfg f.toNat).fpll.toNat xtal maxden = r at hrange ⊢
  generalize hr' : approx (plan Config.cfg f.toNat).fpll.toNat (plan Config.cfg f.toNat).fwork.toNat maxden = r' at hrange' ⊢
  have hpll := encodeReady_pll f s hrange
  have hms := encodeReady_multiSynth (r := r) f s hrange'
  have hunpack : unpack (pllEncoded r f s).img = _ := hpll.unpack_encodedImage
  have hunpack' : unpack (bothEncoded r r' f s).img = _ := hms.unpack_encodedImage
  refine ⟨bothEncoded r r' f s, (pllEncoded r f s).img, (bothEncoded r r' f s).img, ?_, ?_, ?_, ?_, rfl,
    encodedImage_encmsS _, ?_, ?_, ?_, rfl, rfl, bothEncoded_errorBits r r' f s⟩
  · rw [setFrequency_eq f s bypass ch pll hxtal hr hr' hpll hms, transferImage_of_imgv _ (statusImgv_pllEncoded r f s),
      transferImage_of_imgv _ (statusImgv_bothEncoded r r' f s), controlSource]
  · rw [hunpack]
    exact hpll.decodeRatio_encodedFields
  · rw [hunpack]
    rfl
  · rw [hunpack]
    rfl
  · rw [hunpack']
    exact hms.decodeRatio_encodedFields.trans (ratio_encmsS _)
  · rw [hunpack']
    rfl
  · rw [hunpack']
    rfl

end Sys2Proof.Machine
end
